-- ==== Sys2Proof/Word.lean ====
section
/-! DEFINITION. The word types of the Scrivka 812's bus and copy. -/

namespace Sys2Proof

/-- A byte: 8 bits (chapter "About this manual", 4.1). -/
abbrev Byte := BitVec 8

/-- A bus word's contents: 32 bits of data (R1). -/
abbrev Word32 := BitVec 32

/-- A 5-unit line code (R170). -/
abbrev Code5 := BitVec 5

end Sys2Proof
end

