-- ==== Sys2Proof/Syntax.lean ====
section
/-! DEFINITION. The commands of the part: one constructor for each row of spec/opcode_table.json. -/

namespace Sys2Proof

/-- A circuit number, 0 to 7. -/
abbrev Circ := Fin 8

/-- A bus transaction of one bus word (R1): the address, the read/write line, the four byte enables
(bit i is lane i) and, for a write, the write data (bits 8i+7..8i are lane i). -/
structure Txn where
  write : Bool
  addr : Word32
  be : BitVec 4
  data : Word32
deriving DecidableEq, Repr

/-- The commands. A row that names a completion at the memory port completes the transaction that is in
flight there: its address and data stand in the port, so the row carries no operand but what memory adds
(a read fault). A row that names an event of a circuit's line carries the circuit. -/
inductive Instr
  /-- Assertion of RESET (R14). -/
  | powerOnReset
  /-- Release of RESET with the levels of the PAGE pins and the LOAD pin (R13). -/
  | resetRelease (page : BitVec 2) (load : Bool)
  /-- The host presents a transaction (R2). -/
  | hostRequest (t : Txn)
  /-- Memory completes the forwarded host read with a read fault (R3). -/
  | hostReadFault
  /-- Memory completes a forwarded host write of the control page (R17). -/
  | controlPageWrite
  /-- The same, and the write leaves a generation that starts an apply (R19). -/
  | generationWrite
  /-- The same, and the write carries the soft-reset request (R33). -/
  | softReset
  /-- The same, and the write carries HOLD for circuit n (R139). -/
  | hold (n : Circ)
  /-- The same, and the write carries RELEASE for circuit n (R141). -/
  | release (n : Circ)
  /-- The same, and the write carries CLEAR for circuit n (R102). -/
  | clear (n : Circ)
  /-- The same, and the write carries STOP-MOTOR for circuit n (R142). -/
  | stopMotor (n : Circ)
  /-- The same, and the write carries the story request KILL-TAG (R29). -/
  | killTag
  /-- The same, and the write carries the story request RECLASS (R71). -/
  | reclass
  /-- The same, and the write carries the story request SNAPSHOT (R30). -/
  | snapshot
  /-- Memory completes a forwarded host write in a feed window (R38). -/
  | hostFeedWrite
  /-- Memory completes the host read that consumes the head record (R161). -/
  | reportHeadRead
  /-- A fetcher's word read completes, with or without a read fault (R9, R3). -/
  | fetchWordComplete (fault : Bool)
  /-- A word of the record in writing completes (R9). -/
  | recordWordComplete
  /-- A word of the Control Mirror's write list completes (R18). -/
  | mirrorWriteComplete
  /-- A word of the snapshot area completes (R30). -/
  | snapshotWordWrite
  /-- A page-load read completes, with or without a read fault (R31, R3). -/
  | pageLoadRead (fault : Bool)
  /-- The character time of circuit n's slot in progress ends (R134). -/
  | slotComplete (n : Circ)
  /-- Circuit n's idle timer reaches the timeout (R138). -/
  | idleTimeout (n : Circ)
  /-- Circuit n's starvation count reaches the starve limit (R99). -/
  | starveLimitReached (n : Circ)
  /-- Circuit n's space run reaches the break limit (R148). -/
  | breakDetected (n : Circ)
  /-- Circuit n's mark run reaches the clear limit in BROKEN (R150). -/
  | breakClear (n : Circ)
  /-- Circuit n's space run reaches the fault limit (R152). -/
  | loopFault (n : Circ)
  /-- Circuit n's mark run reaches the clear limit in FAULT (R153). -/
  | faultRestore (n : Circ)
  /-- Memory completes a forwarded host transaction that hands nothing on (R2). -/
  | hostTransactionComplete
  /-- Circuit n's return-sense pin takes the level `asserted` (R147). -/
  | senseInputLevelChange (n : Circ) (asserted : Bool)
deriving DecidableEq, Repr

end Sys2Proof
end

