-- ==== Sys2Proof/WellFormed.lean ====
section
/-! DEFINITION. Which commands are well formed. -/

namespace Sys2Proof

/-- A read transaction carries no write data: R1 gives the 32 data bits to a write only. -/
def Txn.wellFormed (t : Txn) : Bool := t.write || t.data == 0

/-- A command is well formed when the transaction it presents is. The operands of every other row are
bounded by their types (a circuit is 0 to 7, PAGE is two pins). -/
def Instr.wellFormed : Instr → Bool
  | .hostRequest t => t.wellFormed
  | .powerOnReset | .resetRelease _ _ | .hostReadFault | .controlPageWrite | .generationWrite
  | .softReset | .hold _ | .release _ | .clear _ | .stopMotor _ | .killTag | .reclass | .snapshot
  | .hostFeedWrite | .reportHeadRead | .fetchWordComplete _ | .recordWordComplete
  | .mirrorWriteComplete | .snapshotWordWrite | .pageLoadRead _ | .slotComplete _ | .idleTimeout _
  | .starveLimitReached _ | .breakDetected _ | .breakClear _ | .loopFault _ | .faultRestore _
  | .hostTransactionComplete | .senseInputLevelChange _ _ => true

end Sys2Proof
end

