-- ==== Sys2Proof/Config.lean ====
section
/-! DEFINITION. The free values: what the spec leaves open and the part goes on after. Each is an opaque
constant, so no proof can use a particular value of it. -/

namespace Sys2Proof

/-- The size code a feed-table size byte of 8 to 255 stands for. R4 and R171 state the codes 0 to 7 only
(log entry 7). The model takes at most 5 of it. -/
opaque Config.feedSizeCode : Byte → Nat

/-- The size code a report-ring size byte of 8 to 255 stands for; R4 and R171 state 0 to 7 (log entry 7).
The model takes at most 6 of it. -/
opaque Config.ringSizeCode : Byte → Nat

/-- Whether lane `i` of a write that RESET ended in flight holds the value written (true) or its earlier
value (R14: "either"); the first argument is the model's counter of such choices (log entry 4). -/
opaque Config.resetWriteLands : Nat → Nat → Bool

end Sys2Proof
end

