-- ==== Sys2Proof/Machine/State.lean ====
section
/-! DEFINITION. The state of the part: every register, list, counter, mode and pin the spec names, as plain
data, with the values after power-on reset. -/

namespace Sys2Proof.Machine

/-- The part has no fault that stops it: every command of the table has an effect in every state. -/
inductive Fault
deriving DecidableEq, Repr

/-- Reasons a command has no meaning. -/
inductive Refusal
  /-- Raised only by an arm of exec for a row without a meaning; no arm does so. Safe. -/
  | notModelled (mnemonic : String)
deriving DecidableEq, Repr

/-- A feed number, 0 to 11. -/
abbrev Feed := Fin 12
/-- A story table entry, 0 to 95. -/
abbrev Tag := Fin 96
/-- A notice pool entry, 0 to 31. -/
abbrev Slot32 := Fin 32
/-- A story class number, 0 FLASH to 4 DEFERRED. -/
abbrev StoryClass := Fin 5
/-- A set of circuits: bit n stands for circuit n (R168). -/
abbrev CircSet := BitVec 8
/-- Sparse bytes in canonical form: rising addresses, no 00h listed, an unlisted address reads 00h. -/
abbrev Memory := List Host.Cell

/-! ### Bus Passage (chapter 1) -/

/-- The ten internal requesters of the arbiter, in the cyclic order of R11. -/
inductive Internal
  | fetcher (n : Circ)
  | writer
  | mirror
deriving DecidableEq, Repr

/-- The Control Mirror's three kinds of access, in its order of preference (R18). -/
inductive MirrorWork
  | list
  | snap
  | load
deriving DecidableEq, Repr

/-- The requester of the transaction at the memory port. -/
inductive Requester
  | host
  | fetcher (n : Circ)
  | writer
  | mirror (w : MirrorWork)
deriving DecidableEq, Repr

/-- The one granted transaction (port state, R9). `orphan`: its access was withdrawn by a soft reset after
the grant, so its completion concerns no access (R16). -/
structure Flight where
  by_ : Requester
  txn : Txn
  orphan : Bool
deriving DecidableEq, Repr

/-- What the part signalled at the last completion on the host side (R1 to R3). -/
structure HostReply where
  data : Word32
  busError : Bool
deriving DecidableEq, Repr

structure Bus where
  /-- RESET is asserted (R14). -/
  resetAsserted : Bool
  /-- Strap latch PAGE (R13). -/
  page : BitVec 2
  /-- Strap latch LOAD (R13). -/
  loadStrap : Bool
  /-- Port state (R9). -/
  port : Option Flight
  /-- The waiting host request; while RESET is asserted, the request still presented (R14). -/
  hostWaiting : Option Txn
  /-- The request the host presents while its last transaction is in flight, held on the host side and not yet
  accepted (R9; log entry 22). -/
  hostHeld : Option Txn
  /-- Round-robin pointer (R11). -/
  rr : Internal
  /-- Host streak, 0 to 8 (R10). -/
  streak : Nat
  /-- The last completion signalled on the host side; none until the first. -/
  hostReply : Option HostReply
deriving DecidableEq, Repr

/-! ### Applied configuration (chapter 2) -/

/-- A placed window: its aligned base and its clamped size code (R4). -/
structure Win where
  base : Nat
  code : Nat
deriving DecidableEq, Repr

structure FeedCfg where
  /-- The applied region, or the mark disabled (R4). -/
  win : Option Win
  /-- Feed code, first character first (R171). -/
  codeA : Byte
  codeB : Byte
  /-- W16 and K16 as clamped by R76; K16 0 is spiking off. -/
  w16 : Nat
  k16 : Nat
deriving DecidableEq, Repr

/-- An applied circuit table entry, clamped by R124 and R133. -/
structure CircCfg where
  enable : Bool
  stopCode : Nat
  elem : Nat
  width : Nat
  fill : Nat
  usos : Bool
  invert : Bool
  lead : Nat
  idleFill : Bool
  idleCode : Nat
  brkThresh : Nat
  clrTime : Nat
  restart : Bool
  faultLim : Nat
  starveLim : Nat
deriving DecidableEq, Repr

structure Applied where
  attnEnable : Bool
  attnMask : Word32
  /-- The service prefix: as many characters as its length gives (R125). -/
  prefix_ : List Byte
  ring : Option Win
  feeds : Vector FeedCfg 12
  /-- The circuit set of feed f and class c at 5f + c (R171). -/
  route : Vector CircSet 60
  circs : Vector CircCfg 8
deriving DecidableEq, Repr

/-! ### Control Mirror (chapter 2) -/

/-- A conditional part of an apply: not in the pending set, waiting, or vacated (R21, R23). -/
inductive PartMark
  | clear
  | waiting
  | vacated
deriving DecidableEq, Repr

/-- A word of the write list: its page offset, its byte enables and its bytes (R18). -/
structure ListedWord where
  off : Nat
  be : BitVec 4
  data : Word32
deriving DecidableEq, Repr

/-- A snapshot in writing: its 420 captured words in writing order, how many have completed, and whether one
further SNAPSHOT waits (R30). -/
structure SnapJob where
  words : List Word32
  next : Nat
  waiting : Bool
deriving DecidableEq, Repr

/-- The page load: the next offset to read, and the request bytes it has read as nonzero (R31). -/
structure LoadJob where
  next : Nat
  nonzero : List Nat
deriving DecidableEq, Repr

structure Mirror where
  staging : Memory
  /-- Generation last seen (R19). -/
  genSeen : Byte
  /-- The last generation that passed validation (R27). -/
  genValid : Byte
  /-- Apply state: pending (true) or idle. -/
  applyPending : Bool
  pendWin : Vector PartMark 12
  pendRing : PartMark
  pendCirc : Vector Bool 8
  writeList : List ListedWord
  snap : Option SnapJob
  snapCount : Word32
  load : Option LoadJob
  /-- A soft reset waits for its RESET_DONE (R34). -/
  resetWait : Bool
  /-- The request the Mirror has placed at the arbiter and that is not yet granted (R18). -/
  req : Option MirrorWork
deriving DecidableEq, Repr

/-! ### Copy Intake (chapter 3) -/

/-- The return state of KILLNUM. -/
inductive Ret
  | between
  | text (tag : Tag)
  | discard (tag : Option Tag)
deriving DecidableEq, Repr

/-- The parse state with the work it holds: the header record, the open story, the kill digits. -/
inductive Parse
  | between
  | header (openOff count : Nat) (stored : List Byte)
  | text (tag : Tag)
  | discard (tag : Option Tag)
  | killnum (ret : Ret) (digits value : Nat)
deriving DecidableEq, Repr

structure FeedCtx where
  cursor : Nat
  parse : Parse
  stray : Nat
  strayArmed : Bool
  looseArmed : Bool
deriving DecidableEq, Repr

/-! ### Story Table (chapter 4) -/

/-- The state of a live story (R55); a FREE entry is `none` in the table. -/
inductive StoryState
  | open_
  | closed
  | killed
  | cut
deriving DecidableEq, Repr

/-- The state of a delivery (R87). -/
inductive DelState
  | waiting
  | inService
  | preempted
  | done
  | abandoned
deriving DecidableEq, Repr

structure Delivery where
  state : DelState
  headSent : Bool
  resumeOff : Nat
  /-- The resume offset lies inside a directive held open at the text end (R121). -/
  inDirective : Bool
  chars : Nat
  subs : Nat
  lines : Nat
deriving DecidableEq, Repr

structure Story where
  state : StoryState
  /-- Killed-while-open. -/
  kwo : Bool
  feed : Feed
  cls : StoryClass
  number : Option (BitVec 16)
  slug : List Byte
  openOff : Nat
  textStart : Nat
  textEnd : Nat
  takes : Nat
  route : CircSet
  hdrFault : Bool
  unclosed : Bool
  unrouted : Bool
  deliveries : Vector (Option Delivery) 8
  sent : CircSet
  dry : CircSet
deriving DecidableEq, Repr

/-- A key of the number index and its tag. -/
structure IndexEntry where
  feed : Feed
  number : BitVec 16
  tag : Tag
deriving DecidableEq, Repr

/-- A kill history entry (R74). -/
structure HistEntry where
  feed : Feed
  number : BitVec 16
  slug : List Byte
  cls : StoryClass
  circs : CircSet
deriving DecidableEq, Repr

/-! ### Feed Ring Monitor (chapter 5) -/

structure Account where
  release : Nat
  occ : Nat
  warn : Bool
  blocked : Option Tag
deriving DecidableEq, Repr

/-! ### Circuit Scheduler (chapter 6) -/

inductive NoticeKind
  | kill
  | superseded
  | spiked
  | lost
deriving DecidableEq, Repr

/-- A queue item or the in-service item. -/
inductive Item
  | story (tag : Tag)
  | notice (idx : Slot32)
deriving DecidableEq, Repr

inductive StopOrder
  | none
  | clear
  | kill (k : NoticeKind)
deriving DecidableEq, Repr

inductive Point
  | none
  | wordBoundary
  | lineEnd
  | takeOrEnd
deriving DecidableEq, Repr

/-- A notice pool entry in use (R100). -/
structure Notice where
  kind : NoticeKind
  codeA : Byte
  codeB : Byte
  number : Option (BitVec 16)
  slug : List Byte
  refs : Nat
deriving DecidableEq, Repr

structure Sched where
  queue : List Item
  item : Option Item
  stop : StopOrder
  /-- The stop order was given during a break, to a delivery that was waiting for copy: its place is reached at once
  after the clear (R155). -/
  stopMet : Bool
  point : Point
  starve : Nat
  /-- The read position at which the starvation count last rose: copy taken beyond it ends the waiting (R98). -/
  waitEnd : Nat
deriving DecidableEq, Repr

/-! ### Circuit Sender (chapters 7 and 8) -/

/-- A plane of the 5-unit code. The tracked plane is an `Option Plane`; UNKNOWN is `none`. -/
inductive Plane
  | ltr
  | fig
  | nat
deriving DecidableEq, Repr

/-- A printing character: its plane, its code, and whether it stands for an unrepresentable byte. -/
structure PChar where
  plane : Plane
  code : Code5
  subst : Bool
deriving DecidableEq, Repr

/-- The kinds of service line that a line origin names (R123). -/
inductive SvcKind
  | head
  | resume
  | endLine
  | notice (k : NoticeKind)
  | stop (k : NoticeKind)
  | lost
deriving DecidableEq, Repr

/-- The line origin (R123). -/
inductive Origin
  | none
  | text (off : Nat)
  | svc (k : SvcKind)
deriving DecidableEq, Repr

/-- The output phase (chapter 7), with the phases of a lost-copy line and of a stop (chapter 9). -/
inductive Phase
  | opening
  | head
  | resume
  | text
  | lostNewline
  | lostLine
  | closing
  | endLine
  | blank
  | notice
  | stopNewline
  | stopLine
deriving DecidableEq, Repr

/-- Why a newline is handed: what its completion leads to. -/
inductive NlCause
  | opening
  | fold
  | hard
  | take
  | svcFold
  | svcLast
  | closing
  | leave
  | stop
  | lost
  | hold
  | restart
deriving DecidableEq, Repr

/-- What the completion of a line character completes. -/
inductive Mark
  | none
  | wordEnd
  | newline (c : NlCause)
  | blankEnd
deriving DecidableEq, Repr

/-- A line character as the packing computation hands it, before shifts and fills are resolved. -/
inductive Sym
  | print (c : PChar)
  | space
  | cr
  | lf
  | fill
deriving DecidableEq, Repr

/-- A character placed and not yet handed, with what its completion completes. -/
structure Placed where
  sym : Sym
  mark : Mark
deriving DecidableEq, Repr

/-- A composed character of a service line not yet placed. -/
inductive SvcTok
  | print (c : PChar)
  | space
  | skip
deriving DecidableEq, Repr

/-- Why a delivery is being returned to its queue at a newline (R97, R99). -/
inductive Leave
  | preempt
  | putAside
deriving DecidableEq, Repr

structure Sender where
  phase : Phase
  /-- Characters placed and not yet handed, in order. -/
  plan : List Placed
  /-- The rest of the composed service line; none when it is not yet composed. -/
  svc : Option (List SvcTok)
  readPos : Nat
  /-- A skipped directive is being read (R121). -/
  inDirective : Bool
  held : List PChar
  nextUnsent : Nat
  pend : Nat
  /-- The offset of the first of the pending spaces (R123). -/
  pendOff : Nat
  column : Nat
  plane : Option Plane
  /-- Line start HARD. -/
  hard : Bool
  /-- Last newline bare. -/
  bare : Bool
  origin : Origin
  /-- A line origin that is a ring offset lies inside a skipped directive (R121, R123). -/
  originDir : Bool
  lineCount : BitVec 16
  /-- The stop's newline has been placed, or its stop line begun: the stop place was reached on a circuit that paced
  slots (R155). -/
  stopBegun : Bool
  /-- A preemption or a put-aside whose action has begun (R95). -/
  leave : Option Leave
  /-- A line restart's replay: the line origin and the captured next unsent offset (R151). -/
  replay : Option (Nat × Nat)
deriving DecidableEq, Repr

/-- A lookahead unit (R144): its offset, its first byte held, its limit counted from its offset, its 16 bytes,
and whether it is a lost unit (R154). -/
structure LUnit where
  off : Nat
  start : Nat
  lim : Nat
  data : List Byte
  lost : Bool
deriving DecidableEq, Repr

/-- What becomes of a fetch in flight: kept; discarded with the next fetch offset returning to it; or
discarded because its item has left service or its line is restarted (R145, R151). -/
inductive FetchFate
  | keep
  | dropBack
  | dropStale
deriving DecidableEq, Repr

structure Fetch where
  off : Nat
  start : Nat
  lim : Nat
  /-- The feed window's base at the request. -/
  base : Nat
  bytes : List Byte
  fault : Bool
  fate : FetchFate
deriving DecidableEq, Repr

structure Fetcher where
  look : List LUnit
  nextFetch : Nat
  fetch : Option Fetch
deriving DecidableEq, Repr

/-! ### Line Unit (chapters 8 and 9) -/

inductive CState
  | off
  | stopped
  | lead
  | running
  | held
  | broken
  | fault
deriving DecidableEq, Repr

/-- A line character in its slot: its code, what its completion completes, the delivery it is counted in, and
whether it belongs to that delivery's head line or text (R128). -/
structure SentChar where
  code : Code5
  mark : Mark
  owner : Option Tag
  headText : Bool
deriving DecidableEq, Repr

inductive SlotKind
  | leadChar
  | char (c : SentChar)
  | fill (code : Code5)
  | mark
deriving DecidableEq, Repr

structure Slot where
  kind : SlotKind
  elapsed : Nat
deriving DecidableEq, Repr

/-- When a capture record that is held outside BROKEN is discarded (R150, R151). -/
inductive CapDrop
  | keep
  | atNewline
  | afterReplay
  | atServiceEnd
deriving DecidableEq, Repr

/-- The capture record (R148). -/
structure Capture where
  from_ : CState
  item : Option Item
  origin : Origin
  nextUnsent : Nat
  column : Nat
  lineCount : BitVec 16
  holdTaken : Bool
  restartDue : Bool
  drop : CapDrop
deriving DecidableEq, Repr

structure LineUnit where
  state : CState
  motor : Bool
  slot : Option Slot
  leadLeft : Nat
  hold : Bool
  /-- The idle timer: none when stopped, its elapsed ticks while running. -/
  idle : Option Nat
  /-- The return-sense pin is asserted. -/
  sense : Bool
  spaceRun : Nat
  markRun : Nat
  brkDet : Bool
  fltDet : Bool
  capture : Option Capture
deriving DecidableEq, Repr

structure Circuit where
  lu : LineUnit
  sch : Sched
  snd : Sender
  ftc : Fetcher
deriving DecidableEq, Repr

/-! ### Report Writer (chapter 10) -/

/-- The 26 report kinds (R173), in the order of their codes. -/
inductive ReportKind
  | storyOpened
  | storyRetired
  | deliveryDone
  | deliveryAbandoned
  | killDone
  | killUnmatched
  | supersedeUnmatched
  | duplicateNumber
  | tableFull
  | spiked
  | feedHigh
  | feedLow
  | feedBlocked
  | overrunCut
  | strayWrite
  | looseCopy
  | noticeDropped
  | memoryFault
  | circuitBreak
  | circuitClear
  | circuitFault
  | circuitRestored
  | circuitCleared
  | applyDone
  | applyRefused
  | resetDone
deriving DecidableEq, Repr

/-- A posted report: its kind, its fields (absent ones none) and its story flags (R158). -/
structure Report where
  kind : ReportKind
  feed : Option Feed := none
  circ : Option Circ := none
  tag : Option Tag := none
  cls : Option StoryClass := none
  number : Option (BitVec 16) := none
  valA : Word32 := 0
  valB : BitVec 16 := 0
  hdrFault : Bool := false
  unclosed : Bool := false
  unrouted : Bool := false
deriving DecidableEq, Repr

/-- The record in writing: its slot, its four words, its attention flag, how many of its words have completed,
and whether it is a RESET_DONE. -/
structure RecordJob where
  slot : Nat
  words : List Word32
  flag : Bool
  done : Nat
  isReset : Bool
deriving DecidableEq, Repr

structure Writer where
  queue : List Report
  rec_ : Option RecordJob
  head : Nat
  tail : Nat
  count : Nat
  flags : List Bool
  attn : Nat
  lost : Nat
deriving DecidableEq, Repr

/-! ### The whole part -/

structure State where
  bus : Bus
  mirror : Mirror
  applied : Applied
  intake : Vector FeedCtx 12
  stories : Vector (Option Story) 96
  admission : List Tag
  feedLists : Vector (List Tag) 12
  index : List IndexEntry
  history : List HistEntry
  accounts : Vector Account 12
  circuits : Vector Circuit 8
  pool : Vector (Option Notice) 32
  writer : Writer
  /-- Story memory, the DRAM on the memory side (log entry 3). -/
  mem : Memory
  /-- The model's counter of free choices taken (log entry 4). -/
  freeCount : Nat
  /-- The commands waiting, first in, first out. -/
  pending : List Instr
deriving DecidableEq, Repr

/-! ### Values after power-on reset -/

/-- R15, with RESET still asserted. -/
def Bus.start : Bus :=
  { resetAsserted := true, page := 0, loadStrap := false, port := none, hostWaiting := none,
    hostHeld := none, rr := .mirror, streak := 0, hostReply := none }

def FeedCfg.start : FeedCfg := { win := none, codeA := 0, codeB := 0, w16 := 0, k16 := 0 }

def CircCfg.start : CircCfg :=
  { enable := false, stopCode := 0, elem := 0, width := 0, fill := 0, usos := false, invert := false,
    lead := 0, idleFill := false, idleCode := 0, brkThresh := 0, clrTime := 0, restart := false,
    faultLim := 0, starveLim := 0 }

/-- R32: everything disabled, every other applied value 0. -/
def Applied.start : Applied :=
  { attnEnable := false, attnMask := 0, prefix_ := [], ring := none,
    feeds := Vector.replicate 12 FeedCfg.start, route := Vector.replicate 60 0,
    circs := Vector.replicate 8 CircCfg.start }

/-- R17, R32. -/
def Mirror.start : Mirror :=
  { staging := [], genSeen := 0, genValid := 0, applyPending := false,
    pendWin := Vector.replicate 12 .clear, pendRing := .clear, pendCirc := Vector.replicate 8 false,
    writeList := [], snap := none, snapCount := 0, load := none, resetWait := false, req := none }

/-- R35: the start values of a feed context. -/
def FeedCtx.start : FeedCtx :=
  { cursor := 0, parse := .between, stray := 0, strayArmed := true, looseArmed := true }

/-- R86. -/
def Account.start : Account := { release := 0, occ := 0, warn := false, blocked := none }

/-- R108. The read position of the last rise of the starvation count has no meaning while that is 0 (log entry 2). -/
def Sched.start : Sched := { queue := [], item := none, stop := .none, stopMet := false, point := .none,
                             starve := 0, waitEnd := 0 }

/-- R109. The read position and the next unsent offset have no meaning while there is no item, and the output phase
has none: it stands at the opening newline (log entry 2). -/
def Sender.start : Sender :=
  { phase := .opening, plan := [], svc := none, readPos := 0, inDirective := false, held := [],
    nextUnsent := 0, pend := 0, pendOff := 0, column := 0, plane := none, hard := false, bare := false,
    origin := .none, originDir := false, lineCount := 0, stopBegun := false, leave := none, replay := none }

/-- R146. -/
def Fetcher.start : Fetcher := { look := [], nextFetch := 0, fetch := none }

/-- R146, R157; the return-sense pin is an input, taken as asserted (log entry 2). -/
def LineUnit.start : LineUnit :=
  { state := .off, motor := false, slot := none, leadLeft := 0, hold := false, idle := none,
    sense := true, spaceRun := 0, markRun := 0, brkDet := false, fltDet := false, capture := none }

def Circuit.start : Circuit :=
  { lu := LineUnit.start, sch := Sched.start, snd := Sender.start, ftc := Fetcher.start }

/-- R167. -/
def Writer.start : Writer :=
  { queue := [], rec_ := none, head := 0, tail := 0, count := 0, flags := [], attn := 0, lost := 0 }

/-- The part after the assertion of RESET, with nothing written to story memory yet. -/
def State.reset : State :=
  { bus := Bus.start, mirror := Mirror.start, applied := Applied.start,
    intake := Vector.replicate 12 FeedCtx.start, stories := Vector.replicate 96 none,
    admission := [], feedLists := Vector.replicate 12 [], index := [], history := [],
    accounts := Vector.replicate 12 Account.start, circuits := Vector.replicate 8 Circuit.start,
    pool := Vector.replicate 32 none, writer := Writer.start, mem := [], freeCount := 0, pending := [] }

end Sys2Proof.Machine
end

