-- ==== Sys2Proof/Machine/Memory.lean ====
section
/-! DEFINITION. Sparse bytes: story memory and the staging copy of the control page. -/

namespace Sys2Proof.Machine

/-- What an unlisted address reads as: 00h. For staging this is R17's value after power-on reset; for story
memory it is a DESIGN CHOICE (log entry 3). -/
def unlisted : Byte := 0

/-- The byte at address a. -/
def memRead : Memory → Nat → Byte
  | [], _ => unlisted
  | (k, v) :: m, a => if k = a then v else memRead m a

/-- The memory with byte v at address a, in canonical form. -/
def memWrite : Memory → Nat → Byte → Memory
  | [], a, v => if v = unlisted then [] else [(a, v)]
  | (k, w) :: m, a, v =>
    if a < k then (if v = unlisted then (k, w) :: m else (a, v) :: (k, w) :: m)
    else if a = k then (if v = unlisted then m else (a, v) :: m)
    else (k, w) :: memWrite m a v

/-- Canonical form from address lo on: rising addresses, nothing listed that reads as unlisted. -/
def memSorted : Nat → Memory → Bool
  | _, [] => true
  | lo, (k, v) :: m => decide (lo ≤ k) && v != unlisted && memSorted (k + 1) m

/-- The canonical form of a memory. -/
def Memory.wf (m : Memory) : Bool := memSorted 0 m

/-- Byte lane i of a bus word's data (R1, R168). -/
def wordByte (d : Word32) (i : Nat) : Byte := d.extractLsb' (8 * i) 8

/-- Four bytes as a bus word, the first in lane 0 (R168). -/
def wordOf (b0 b1 b2 b3 : Byte) : Word32 := (b3 ++ b2 ++ b1 ++ b0 : BitVec 32)

/-- The bus word address of a transaction: its address with the two low bits taken as zero (R1). -/
def Txn.word (t : Txn) : Nat := t.addr.toNat / 4 * 4

/-- The enabled lanes, lowest first (R1). -/
def lanesOf (be : BitVec 4) : List Nat := [0, 1, 2, 3].filter fun i => be.getLsbD i

/-- Writes the listed lanes of d at word address a. -/
def memWriteLanes (m : Memory) (a : Nat) (d : Word32) : List Nat → Memory
  | [] => m
  | i :: is => memWriteLanes (memWrite m (a + i) (wordByte d i)) a d is

/-- The bus word at word address a, all four lanes (R1). -/
def memReadWord (m : Memory) (a : Nat) : Word32 :=
  wordOf (memRead m a) (memRead m (a + 1)) (memRead m (a + 2)) (memRead m (a + 3))

/-- A transaction carried out at memory: a write changes its enabled bytes and nothing else (R1, R2). -/
def memApply (m : Memory) (t : Txn) : Memory :=
  if t.write then memWriteLanes m (Txn.word t) t.data (lanesOf t.be) else m

end Sys2Proof.Machine
end

