-- ==== Sys2Proof/Machine/Access.lean ====
section
/-! DEFINITION. Reading and writing the pieces of the state, each in one place. -/

namespace Sys2Proof.Machine

/-- The vector with entry i replaced. -/
def vset {α : Type} {k : Nat} (v : Vector α k) (i : Fin k) (x : α) : Vector α k := v.set i.1 x i.2

/-- Entry i of a vector. -/
def vget {α : Type} {k : Nat} (v : Vector α k) (i : Fin k) : α := v[i.1]'i.2

def allCircs : List Circ := [0, 1, 2, 3, 4, 5, 6, 7]
def allFeeds : List Feed := [0, 1, 2, 3, 4, 5, 6, 7, 8, 9, 10, 11]
def allTags : List Tag := List.finRange 96
def allSlots : List Slot32 := List.finRange 32

/-- Circuit n is in the set (R168). -/
def CircSet.has (c : CircSet) (n : Circ) : Bool := BitVec.getLsbD c n.1

/-- The set with circuit n. -/
def CircSet.add (c : CircSet) (n : Circ) : CircSet := c ||| (1#8 <<< n.1)

/-- The set without circuit n. -/
def CircSet.del (c : CircSet) (n : Circ) : CircSet := c &&& ~~~(1#8 <<< n.1)

/-- The distance from ring offset a forward to b in a ring of the given size. -/
def ringDist (size a b : Nat) : Nat := (b + size - a) % size

/-- Adding one with saturation. -/
def satInc (top n : Nat) : Nat := if n < top then n + 1 else top

def State.circ (s : State) (n : Circ) : Circuit := vget s.circuits n
def State.setCirc (s : State) (n : Circ) (c : Circuit) : State :=
  { s with circuits := vset s.circuits n c }
def State.updLu (s : State) (n : Circ) (f : LineUnit → LineUnit) : State :=
  s.setCirc n { s.circ n with lu := f (s.circ n).lu }
def State.updSch (s : State) (n : Circ) (f : Sched → Sched) : State :=
  s.setCirc n { s.circ n with sch := f (s.circ n).sch }
def State.updSnd (s : State) (n : Circ) (f : Sender → Sender) : State :=
  s.setCirc n { s.circ n with snd := f (s.circ n).snd }
def State.updFtc (s : State) (n : Circ) (f : Fetcher → Fetcher) : State :=
  s.setCirc n { s.circ n with ftc := f (s.circ n).ftc }

def State.ccfg (s : State) (n : Circ) : CircCfg := vget s.applied.circs n
def State.fcfg (s : State) (f : Feed) : FeedCfg := vget s.applied.feeds f
def State.setFcfg (s : State) (f : Feed) (c : FeedCfg) : State :=
  { s with applied := { s.applied with feeds := vset s.applied.feeds f c } }

def State.ctx (s : State) (f : Feed) : FeedCtx := vget s.intake f
def State.setCtx (s : State) (f : Feed) (c : FeedCtx) : State :=
  { s with intake := vset s.intake f c }
def State.updCtx (s : State) (f : Feed) (g : FeedCtx → FeedCtx) : State := s.setCtx f (g (s.ctx f))

def State.acct (s : State) (f : Feed) : Account := vget s.accounts f
def State.setAcct (s : State) (f : Feed) (a : Account) : State :=
  { s with accounts := vset s.accounts f a }

def State.flist (s : State) (f : Feed) : List Tag := vget s.feedLists f
def State.setFlist (s : State) (f : Feed) (l : List Tag) : State :=
  { s with feedLists := vset s.feedLists f l }

def State.story (s : State) (t : Tag) : Option Story := vget s.stories t
def State.setStory (s : State) (t : Tag) (x : Option Story) : State :=
  { s with stories := vset s.stories t x }
/-- Changes the record of a live story; a FREE entry stays FREE. -/
def State.updStory (s : State) (t : Tag) (f : Story → Story) : State :=
  match s.story t with
  | none => s
  | some st => s.setStory t (some (f st))

/-- The delivery of a story on a circuit. -/
def Story.delivery (st : Story) (n : Circ) : Option Delivery := vget st.deliveries n
def Story.setDelivery (st : Story) (n : Circ) (d : Delivery) : Story :=
  { st with deliveries := vset st.deliveries n (some d) }
/-- Changes the delivery of a live story on a circuit, where there is one. -/
def State.updDelivery (s : State) (t : Tag) (n : Circ) (f : Delivery → Delivery) : State :=
  s.updStory t fun st =>
    match st.delivery n with
    | none => st
    | some d => st.setDelivery n (f d)

def State.notice (s : State) (i : Slot32) : Option Notice := vget s.pool i
def State.setNotice (s : State) (i : Slot32) (x : Option Notice) : State :=
  { s with pool := vset s.pool i x }

def State.setWriter (s : State) (w : Writer) : State := { s with writer := w }
def State.setMirror (s : State) (m : Mirror) : State := { s with mirror := m }

/-- The tag of the delivery in service on circuit n. -/
def Sched.tag (c : Sched) : Option Tag :=
  match c.item with
  | some (.story t) => some t
  | _ => none

/-- Is tag t the delivery in service on circuit n? -/
def State.serving (s : State) (t : Tag) (n : Circ) : Bool := (s.circ n).sch.tag == some t

end Sys2Proof.Machine
end

