-- ==== Sys2Proof/Machine/Operands.lean ====
section
/-! DEFINITION. The operand forms: window placement, the fields of the control page as staged, aligned and
clamped, the copy code and the 5-unit code. -/

namespace Sys2Proof.Machine

/-! ### Windows (R4) -/

/-- The control page base for a latched PAGE value (R4). -/
def pageBase (p : BitVec 2) : Nat := 0x03FFF000 + p.toNat * 0x04000000

/-- The size of the control page. -/
def pageSize : Nat := 4096

/-- The window size of a feed size code 1 to 5 (R4). -/
def feedSize (code : Nat) : Nat :=
  match code with
  | 1 => 16384
  | 2 => 65536
  | 3 => 262144
  | 4 => 1048576
  | _ => 4194304

/-- The number of slots of a report ring size code 1 to 6 (R4). -/
def ringSlots (code : Nat) : Nat :=
  match code with
  | 1 => 16
  | 2 => 32
  | 3 => 64
  | 4 => 128
  | 5 => 256
  | _ => 512

def Win.feedSize (w : Win) : Nat := Sys2Proof.Machine.feedSize w.code
def Win.ringBytes (w : Win) : Nat := 16 * ringSlots w.code

/-- The feed size code taken from its byte: 0 disabled, 6 and 7 as 5; 8 to 255 unstated (log entry 7). -/
def feedCode (b : Byte) : Nat :=
  if b.toNat ≤ 5 then b.toNat else if b.toNat ≤ 7 then 5 else min 5 (Config.feedSizeCode b)

/-- The ring size code taken from its byte: 0 disabled, 7 as 6; 8 to 255 unstated (log entry 7). -/
def ringCode (b : Byte) : Nat :=
  if b.toNat ≤ 6 then b.toNat else if b.toNat ≤ 7 then 6 else min 6 (Config.ringSizeCode b)

/-- An address aligned down to a size. -/
def alignDown (a size : Nat) : Nat := a / size * size

/-- Two regions share an address (R4, R20). -/
def overlap (b1 z1 b2 z2 : Nat) : Bool := decide (b1 < b2 + z2) && decide (b2 < b1 + z1)

/-! ### Staged fields (R168, R171) -/

def staged8 (m : Memory) (o : Nat) : Byte := memRead m o
def staged16 (m : Memory) (o : Nat) : Nat := (memRead m o).toNat + 256 * (memRead m (o + 1)).toNat
def staged32 (m : Memory) (o : Nat) : Word32 := memReadWord m o
/-- A flag byte: off for 00h, on for any other value (R168). -/
def stagedFlag (m : Memory) (o : Nat) : Bool := memRead m o != 0

/-- Feed n's window as it would be applied: aligned and clamped, none when disabled (R20). -/
def stagedWin (m : Memory) (f : Feed) : Option Win :=
  let code := feedCode (staged8 m (0x44 + 16 * f.1))
  if code = 0 then none
  else some { base := alignDown (staged32 m (0x40 + 16 * f.1)).toNat (feedSize code), code := code }

/-- The report ring as it would be applied (R20). -/
def stagedRing (m : Memory) : Option Win :=
  let code := ringCode (staged8 m 0x20)
  if code = 0 then none
  else some { base := alignDown (staged32 m 0x1C).toNat (16 * ringSlots code), code := code }

/-- W16 as taken (R76). -/
def clampW16 (b : Byte) : Nat := if b.toNat = 0 ∨ 16 ≤ b.toNat then 15 else b.toNat

/-- K16 as taken, with W16 as clamped; 0 is spiking off (R76). -/
def clampK16 (w16 : Nat) (b : Byte) : Nat :=
  if b.toNat = 0 then 0 else if 15 < b.toNat then 15 else max b.toNat w16

/-- The levels part of feed n: feed code, W16, K16 (R21). -/
structure LevelsPart where
  codeA : Byte
  codeB : Byte
  w16 : Nat
  k16 : Nat
deriving DecidableEq, Repr

def stagedLevels (m : Memory) (f : Feed) : LevelsPart :=
  let w := clampW16 (staged8 m (0x47 + 16 * f.1))
  { codeA := staged8 m (0x45 + 16 * f.1), codeB := staged8 m (0x46 + 16 * f.1), w16 := w,
    k16 := clampK16 w (staged8 m (0x48 + 16 * f.1)) }

/-- The service prefix: the characters its length gives, a length above 8 taken as 8 (R125). -/
def stagedPrefix (m : Memory) : List Byte :=
  ((List.range 8).map fun i => staged8 m (0x28 + i)).take (min 8 (staged8 m 0x24).toNat)

/-- All 60 circuit sets (R171). -/
def stagedRoute (m : Memory) : Vector CircSet 60 := Vector.ofFn fun i => staged8 m (0x100 + i.1)

/-- Line width (R124). -/
def clampWidth (w : Nat) : Nat := if w = 0 then 0 else max 16 (min 72 w)

/-- Circuit n's entry as it would be applied, clamped by R124 and R133. -/
def stagedCirc (m : Memory) (n : Circ) : CircCfg :=
  let o := 0x140 + 32 * n.1
  { enable := stagedFlag m o
    stopCode := min 3 (staged8 m (o + 1)).toNat
    elem := max 256 (min 4095 (staged16 m (o + 2)))
    width := clampWidth (staged8 m (o + 4)).toNat
    fill := min 3 (staged8 m (o + 5)).toNat
    usos := stagedFlag m (o + 6)
    invert := stagedFlag m (o + 7)
    lead := min 31 (staged8 m (o + 8)).toNat
    idleFill := stagedFlag m (o + 9)
    idleCode := min 250 (staged8 m (o + 10)).toNat
    brkThresh := max 2 (staged8 m (o + 11)).toNat
    clrTime := max 2 (staged8 m (o + 12)).toNat
    restart := stagedFlag m (o + 13)
    faultLim := max 64 (staged16 m (o + 14))
    starveLim := (staged8 m (o + 16)).toNat }

/-! ### Times of a circuit entry -/

/-- The stop length S (R130). -/
def CircCfg.stopLen (c : CircCfg) : Nat :=
  match c.stopCode with
  | 0 => c.elem
  | 1 => 3 * c.elem / 2
  | _ => 2 * c.elem

/-- The character time T = 6E + S (R130). -/
def CircCfg.charTime (c : CircCfg) : Nat := 6 * c.elem + c.stopLen

/-- The idle timeout in ticks; 0 is none (R138). -/
def CircCfg.idleTicks (c : CircCfg) : Nat :=
  if c.idleCode = 0 then 0
  else if c.idleCode ≤ 60 then c.idleCode * 153600
  else if c.idleCode ≤ 200 then (c.idleCode - 60) * 1152000
  else (c.idleCode - 200) * 23040000

/-- The three limits of the break detector (R147). -/
def CircCfg.brkLimit (c : CircCfg) : Nat := c.brkThresh * c.elem
def CircCfg.clrLimit (c : CircCfg) : Nat := c.clrTime * c.elem
def CircCfg.fltLimit (c : CircCfg) : Nat := c.faultLim * c.elem

/-! ### The codes (R110, R169, R170) -/

/-- Codes of the 26 characters of a plane, in the order A to Z, which is N1 to N26 and 1 to 9, 0 and the
sixteen signs (R170). -/
def planeCodes : List Code5 :=
  [1, 3, 5, 6, 7, 9, 10, 11, 12, 13, 14, 15, 16, 17, 18, 19, 20, 21, 22, 23, 24, 25, 26, 28, 29, 30]

/-- The copy bytes of the figures plane in code order (R170). -/
def figBytes : List Byte :=
  [0x31, 0x32, 0x33, 0x34, 0x35, 0x36, 0x37, 0x38, 0x39, 0x30, 0x2D, 0x3F, 0x3A, 0x28, 0x29, 0x2E,
   0x2C, 0x27, 0x3D, 0x2F, 0x2B, 0x22, 0x3B, 0x21, 0x26, 0x2A]

/-- The place of a byte in a list, if it is there. -/
def placeOf (b : Byte) : List Byte → Nat → Option Nat
  | [], _ => none
  | x :: xs, i => if x = b then some i else placeOf b xs (i + 1)

/-- The code of the i-th character of a plane. -/
def planeCode (i : Nat) : Code5 := planeCodes.getD i 0

def codeLtr : Code5 := 31
def codeFig : Code5 := 27
def codeNat : Code5 := 0
def codeSpace : Code5 := 4
def codeCr : Code5 := 8
def codeLf : Code5 := 2

/-- The shift code of a plane (R170). -/
def Plane.shift : Plane → Code5
  | .ltr => codeLtr
  | .fig => codeFig
  | .nat => codeNat

/-- The figures-plane ? of an unrepresentable byte (R122). -/
def substChar : PChar := { plane := .fig, code := planeCode 11, subst := true }

/-- What the Sender takes a text byte for (R110). -/
inductive Token
  | print (c : PChar)
  | space
  | newline
  | take
  | kill
  | skip
deriving DecidableEq, Repr

/-- R110. -/
def tokenOf (b : Byte) : Token :=
  let v := b.toNat
  if v = 0x20 then .space
  else if v = 0x0A then .newline
  else if v = 0x04 then .take
  else if v = 0x18 then .kill
  else if v < 0x20 then .skip
  else if 0x41 ≤ v ∧ v ≤ 0x5A then .print { plane := .ltr, code := planeCode (v - 0x41), subst := false }
  else if 0x61 ≤ v ∧ v ≤ 0x7A then .print { plane := .ltr, code := planeCode (v - 0x61), subst := false }
  else if 0xC0 ≤ v ∧ v ≤ 0xD9 then .print { plane := .nat, code := planeCode (v - 0xC0), subst := false }
  else
    match placeOf b figBytes 0 with
    | some i => .print { plane := .fig, code := planeCode i, subst := false }
    | none => .print substChar

/-- A decimal digit byte. -/
def isDigit (b : Byte) : Bool := decide (0x30 ≤ b.toNat) && decide (b.toNat ≤ 0x39)

/-- The same table for the bytes of a service line, whose marks and KILL are skipped (R110); the ? of an
unrepresentable byte there is not counted (R122). -/
def svcTok (b : Byte) : SvcTok :=
  match tokenOf b with
  | .print c => .print { c with subst := false }
  | .space => .space
  | _ => .skip

/-- A number in decimal without leading zeros, 0 as 0 (R125). Five digits hold every story number. -/
def decimal (n : Nat) : List Byte :=
  let ds := [n / 10000 % 10, n / 1000 % 10, n / 100 % 10, n / 10 % 10]
  (ds.dropWhile (· == 0)).map (fun d => BitVec.ofNat 8 (0x30 + d)) ++ [BitVec.ofNat 8 (0x30 + n % 10)]

/-! ### Words of service lines (R125) -/

def wordFlash : List Byte := [0x46, 0x4C, 0x41, 0x53, 0x48]
def wordBulletin : List Byte := [0x42, 0x55, 0x4C, 0x4C, 0x45, 0x54, 0x49, 0x4E]
def wordUrgent : List Byte := [0x55, 0x52, 0x47, 0x45, 0x4E, 0x54]
def wordRoutine : List Byte := [0x52, 0x4F, 0x55, 0x54, 0x49, 0x4E, 0x45]
def wordDeferred : List Byte := [0x44, 0x45, 0x46, 0x45, 0x52, 0x52, 0x45, 0x44]
def wordResuming : List Byte := [0x52, 0x45, 0x53, 0x55, 0x4D, 0x49, 0x4E, 0x47]
def wordEnd : List Byte := [0x45, 0x4E, 0x44]
def wordKill : List Byte := [0x4B, 0x49, 0x4C, 0x4C]
def wordSuperseded : List Byte := [0x53, 0x55, 0x50, 0x45, 0x52, 0x53, 0x45, 0x44, 0x45, 0x44]
def wordSpiked : List Byte := [0x53, 0x50, 0x49, 0x4B, 0x45, 0x44]
def wordLost : List Byte := [0x4C, 0x4F, 0x53, 0x54]

/-- The class word (R125). -/
def classWord (c : StoryClass) : List Byte :=
  match c.1 with
  | 0 => wordFlash
  | 1 => wordBulletin
  | 2 => wordUrgent
  | 3 => wordRoutine
  | _ => wordDeferred

/-- The kind word (R125). -/
def NoticeKind.word : NoticeKind → List Byte
  | .kill => wordKill
  | .superseded => wordSuperseded
  | .spiked => wordSpiked
  | .lost => wordLost

/-- "Feed code and number" as one field (R125). -/
def codeNumber (a b : Byte) (num : Option (BitVec 16)) : List Byte :=
  [a, b] ++ (match num with
    | none => []
    | some n => decimal n.toNat)

/-- The fields present, a single space between each two (R125). -/
def joinFields : List (List Byte) → List Byte
  | [] => []
  | f :: fs =>
    if f = [] then joinFields fs
    else
      match joinFields fs with
      | [] => f
      | rest => f ++ 0x20 :: rest

/-! ### Codes written into records (R172, R173) -/

def CState.code : CState → Nat
  | .off => 0 | .stopped => 1 | .lead => 2 | .running => 3 | .held => 4 | .broken => 5 | .fault => 6

def StoryState.code : StoryState → Nat
  | .open_ => 1 | .closed => 2 | .killed => 3 | .cut => 4

def DelState.code : DelState → Nat
  | .waiting => 0 | .inService => 1 | .preempted => 2 | .done => 3 | .abandoned => 4

def planeNum : Option Plane → Nat
  | some .ltr => 0 | some .fig => 1 | some .nat => 2 | none => 3

def NoticeKind.code : NoticeKind → Nat
  | .kill => 0 | .superseded => 1 | .spiked => 2 | .lost => 3

/-- The capture origin kind of a held record (R172). -/
def Origin.code : Origin → Nat
  | .text _ => 1
  | .svc .head => 2
  | .svc .resume => 3
  | .svc .endLine => 4
  | .svc (.notice _) => 5
  | .svc (.stop _) => 6
  | .svc .lost => 7
  | .none => 8

def ReportKind.code : ReportKind → Nat
  | .storyOpened => 0 | .storyRetired => 1 | .deliveryDone => 2 | .deliveryAbandoned => 3
  | .killDone => 4 | .killUnmatched => 5 | .supersedeUnmatched => 6 | .duplicateNumber => 7
  | .tableFull => 8 | .spiked => 9 | .feedHigh => 10 | .feedLow => 11 | .feedBlocked => 12
  | .overrunCut => 13 | .strayWrite => 14 | .looseCopy => 15 | .noticeDropped => 16
  | .memoryFault => 17 | .circuitBreak => 18 | .circuitClear => 19 | .circuitFault => 20
  | .circuitRestored => 21 | .circuitCleared => 22 | .applyDone => 23 | .applyRefused => 24
  | .resetDone => 25

/-- A byte from a number. -/
def byteN (n : Nat) : Byte := BitVec.ofNat 8 n

/-- The two bytes of a 16-bit field, least significant first (R168). -/
def bytes16 (v : BitVec 16) : List Byte := [v.extractLsb' 0 8, v.extractLsb' 8 8]

/-- Bytes taken four at a time as bus words. -/
def wordsOf : List Byte → List Word32
  | a :: b :: c :: d :: r => wordOf a b c d :: wordsOf r
  | _ => []

end Sys2Proof.Machine
end

