-- ==== Sys2Proof/Machine/Flags.lean ====
section
/-! DEFINITION. The tests, flags and output levels computed from the state. -/

namespace Sys2Proof.Machine

/-! ### Address classes (R5) -/

/-- The address class of a bus word (R5), with what R6 hands over. -/
inductive AddrClass
  | control (off : Nat)
  | feed (f : Feed) (off : Nat)
  | report (slot word : Nat)
  | other
deriving DecidableEq, Repr

/-- The address lies in the region. -/
def inRegion (a base size : Nat) : Bool := decide (base ≤ a) && decide (a < base + size)

/-- The control page base in force. -/
def State.page (s : State) : Nat := pageBase s.bus.page

/-- The window size of feed f; 0 while it is disabled. -/
def State.fsize (s : State) (f : Feed) : Nat :=
  match (s.fcfg f).win with
  | none => 0
  | some w => w.feedSize

/-- The window base of feed f; 0 while it is disabled. -/
def State.fbase (s : State) (f : Feed) : Nat :=
  match (s.fcfg f).win with
  | none => 0
  | some w => w.base

/-- Feed f is enabled and its window holds address a. -/
def State.inFeed (s : State) (a : Nat) (f : Feed) : Bool :=
  match (s.fcfg f).win with
  | none => false
  | some w => inRegion a w.base w.feedSize

/-- The class of a report-ring or other address. -/
def State.classifyRing (s : State) (a : Nat) : AddrClass :=
  match s.applied.ring with
  | none => .other
  | some w => if inRegion a w.base w.ringBytes
    then .report ((a - w.base) / 16) ((a - w.base) % 16 / 4) else .other

/-- The class of a bus word address under the window set in force (R5). -/
def State.classify (s : State) (a : Nat) : AddrClass :=
  if inRegion a s.page pageSize then .control (a - s.page)
  else
    match allFeeds.find? (s.inFeed a) with
    | some f => .feed f (a - s.fbase f)
    | none => s.classifyRing a

/-! ### Attention (R163) -/

/-- The attention output. -/
def State.attention (s : State) : Bool := s.applied.attnEnable && decide (0 < s.writer.attn)

/-! ### Levels of a feed (R76) -/

def State.warnLevel (s : State) (f : Feed) : Nat := s.fsize f * (s.fcfg f).w16 / 16

def State.lowLevel (s : State) (f : Feed) : Nat :=
  if 3 ≤ (s.fcfg f).w16 then s.fsize f * ((s.fcfg f).w16 - 2) / 16 else 0

/-- The spike level, or none for "spiking off". -/
def State.spikeLevel (s : State) (f : Feed) : Option Nat :=
  if (s.fcfg f).k16 = 0 ∨ (s.fcfg f).win = none then none else some (s.fsize f * (s.fcfg f).k16 / 16)

/-! ### Stories -/

/-- The tag names a live story of feed f. -/
def State.liveOf (s : State) (f : Feed) (t : Tag) : Bool :=
  match s.story t with
  | none => false
  | some st => st.feed == f

/-- Feed f has a live story, in any state but FREE (R22, R73). -/
def State.feedLive (s : State) (f : Feed) : Bool := s.admission.any (s.liveOf f)

/-- "Open at the intake" (R62, R72). -/
def Story.openAtIntake (st : Story) : Bool :=
  match st.state with
  | .open_ => true
  | .killed => st.kwo
  | .closed => false
  | .cut => false

/-- A delivery that holds its story live (R72). -/
def DelState.active : DelState → Bool
  | .waiting => true
  | .inService => true
  | .preempted => true
  | .done => false
  | .abandoned => false

/-- The delivery on circuit n is active. -/
def Story.activeOn (st : Story) (n : Circ) : Bool :=
  match st.delivery n with
  | none => false
  | some d => d.state.active

/-- The delivery on circuit n is IN_SERVICE. -/
def Story.servedOn (st : Story) (n : Circ) : Bool :=
  match st.delivery n with
  | none => false
  | some d => d.state == .inService

/-- The retirement condition (R72). -/
def Story.mayRetire (st : Story) : Bool := !st.openAtIntake && !(allCircs.any st.activeOn)

/-- The victim test of R56. -/
def Story.victim (st : Story) : Bool :=
  st.state == .closed && decide (3 ≤ st.cls.1) && st.sent == 0 && !(allCircs.any st.servedOn)

/-! ### Conditions of the conditional parts (R21) -/

/-- A feed window part's condition: no live story and the intake BETWEEN. -/
def State.winCond (s : State) (f : Feed) : Bool := !s.feedLive f && (s.ctx f).parse == .between

/-- The report ring part's condition: no unconsumed record and none in writing. -/
def State.ringCond (s : State) : Bool := s.writer.count == 0 && s.writer.rec_.isNone

/-- A circuit part's condition in a state that sends no characters. RUNNING is not one: its condition is met at a slot
completion, not in the middle of a mark or fill slot (R21, R22; log entry 41). -/
def CState.quiet : CState → Bool
  | .off => true
  | .stopped => true
  | .held => true
  | .fault => true
  | .lead => false
  | .running => false
  | .broken => false

/-! ### Queue items (R89, R91, R94) -/

/-- The rank of an item: the story's current class, a notice as BULLETIN (R89). -/
def State.rank (s : State) (i : Item) : Nat :=
  match i with
  | .notice _ => 1
  | .story t =>
    match s.story t with
    | none => 4
    | some st => st.cls.1

/-- The item is dry on circuit n; a notice is never dry (R91). -/
def State.dryOn (s : State) (n : Circ) (i : Item) : Bool :=
  match i with
  | .notice _ => false
  | .story t =>
    match s.story t with
    | none => false
    | some st => CircSet.has st.dry n

/-- The best waiting rank below class k among the items that are not dry (R94); k when there is none. -/
def State.bestRank (s : State) (n : Circ) (k : Nat) : List Item → Nat
  | [] => k
  | i :: is => if s.dryOn n i then s.bestRank n k is else min (s.rank i) (s.bestRank n k is)

/-- The point a best waiting rank sets for an in-service story of class k (R94). -/
def pointOfRank (k best : Nat) : Point :=
  if best < k then
    match best with
    | 0 => .wordBoundary
    | 1 => .lineEnd
    | 2 => .takeOrEnd
    | _ => .none
  else .none

/-- The preemption point of circuit n as R94 gives it for the state as it stands. -/
def State.pointOf (s : State) (n : Circ) : Point :=
  let c := (s.circ n).sch
  match c.item, c.stop with
  | some (.story t), .none =>
    match s.story t with
    | none => .none
    | some st => pointOfRank st.cls.1 (s.bestRank n st.cls.1 c.queue)
  | _, _ => .none

/-- The circuit is ready (R91). -/
def State.ready (s : State) (n : Circ) : Bool :=
  (s.circ n).lu.state == .running && !(s.circ n).lu.hold

/-- The circuit is idle (R137). -/
def State.isIdle (s : State) (n : Circ) : Bool :=
  (s.circ n).lu.state == .running && (s.circ n).sch.item.isNone && (s.circ n).sch.queue.isEmpty

/-! ### The Sender's tests -/

/-- The slot in progress carries a character the Sender handed. -/
def LineUnit.sending (l : LineUnit) : Bool :=
  match l.slot with
  | some { kind := .char _, elapsed := _ } => true
  | _ => false

/-- The next character to hand lies inside a newline already begun (R114: a newline is one unit). -/
def Sender.inNewline (d : Sender) : Bool :=
  match d.plan with
  | { sym := .lf, mark := .blankEnd } :: _ => false
  | { sym := .lf, mark := _ } :: _ => true
  | { sym := .fill, mark := _ } :: _ => true
  | _ => false

/-- The held word is longer than R117 lets the Sender hold. -/
def heldTooLong (width len : Nat) : Bool :=
  if width = 0 then decide (73 ≤ len) else decide (width < len)

/-- The in-service delivery of circuit n is waiting for copy (R98, R118). It is not while any character of a newline stands
ready, such as one a hold asked for (log entry 55). -/
def State.waitingCopy (s : State) (n : Circ) : Bool :=
  let c := s.circ n
  match c.sch.tag with
  | none => false
  | some t =>
    match s.story t with
    | none => false
    | some st =>
      st.state == .open_ && c.snd.phase == .text && c.snd.plan.isEmpty && c.snd.leave.isNone
        && c.snd.readPos == st.textEnd
        && !(heldTooLong (s.ccfg n).width c.snd.held.length) && !c.lu.sending

/-! ### The line (R131, R132) -/

/-- The sense input of a line unit reads mark under the applied invert (R132). -/
def LineUnit.readsMark (l : LineUnit) (invert : Bool) : Bool := l.sense != invert

/-- A line character's level at a tick: mark (true) or space; start, five elements, stop (R132). -/
def charLevel (code : Code5) (elem elapsed : Nat) : Bool :=
  let e := elapsed / elem
  if e = 0 then false else if e ≤ 5 then code.getLsbD (e - 1) else true

/-- The line output of circuit n is at mark. -/
def State.lineMark (s : State) (n : Circ) : Bool :=
  match (s.circ n).lu.slot with
  | none => true
  | some sl =>
    match sl.kind with
    | .mark => true
    | .leadChar => charLevel codeLtr (s.ccfg n).elem sl.elapsed
    | .fill c => charLevel c (s.ccfg n).elem sl.elapsed
    | .char c => charLevel c.code (s.ccfg n).elem sl.elapsed

/-- The line output of circuit n is asserted (R132). -/
def State.lineOut (s : State) (n : Circ) : Bool := s.lineMark n != (s.ccfg n).invert

end Sys2Proof.Machine
end

