-- ==== Sys2Proof/Machine/Ops.lean ====
section
/-! DEFINITION. The shared operations of the Control Mirror's write list, of the Report Writer and of the
memory-port arbiter. -/

namespace Sys2Proof.Machine

/-! ### The write list (R18) -/

/-- The lane i of new where enabled, else of old. -/
def laneOf (old new : Word32) (be : BitVec 4) (i : Nat) : Byte :=
  if be.getLsbD i then wordByte new i else wordByte old i

/-- The word old with the enabled lanes of new. -/
def mergeLanes (old new : Word32) (be : BitVec 4) : Word32 :=
  wordOf (laneOf old new be 0) (laneOf old new be 1) (laneOf old new be 2) (laneOf old new be 3)

/-- Joins bytes to the listed word of the same address, or adds a word at the end (R18). -/
def listJoin (off : Nat) (be : BitVec 4) (data : Word32) : List ListedWord → List ListedWord
  | [] => [{ off := off, be := be, data := data }]
  | w :: ws =>
    if w.off = off then { off := off, be := w.be ||| be, data := mergeLanes w.data data be } :: ws
    else w :: listJoin off be data ws

/-- Puts bytes of a page word on the write list. -/
def State.listBytes (s : State) (off : Nat) (be : BitVec 4) (data : Word32) : State :=
  { s with mirror := { s.mirror with writeList := listJoin off be data s.mirror.writeList } }

/-- Puts a 0 for the request byte at a page offset on the write list (R28, R29, R31, R34). -/
def State.listZero (s : State) (o : Nat) : State :=
  s.listBytes (o / 4 * 4) (1#4 <<< (o % 4)) 0

/-- Apply status and refused entry index (R20, R21). -/
def State.listStatus (s : State) (status index : Nat) : State :=
  s.listBytes 0 0b1100 (wordOf 0 0 (byteN status) (byteN index))

/-- Applied generation, apply status and refused entry index in one word (R26, R32). -/
def State.listAck (s : State) (gen : Byte) (status index : Nat) : State :=
  s.listBytes 0 0b1110 (wordOf 0 gen (byteN status) (byteN index))

/-- The result and a 0 for the kind of the story request slot, in one word (R29). -/
def State.listResult (s : State) (result : Nat) : State :=
  s.listBytes 8 0b1001 (wordOf 0 0 0 (byteN result))

/-! ### The Report Writer (chapter 10) -/

/-- An absent byte field is FFh (R159). -/
def optByte {k : Nat} : Option (Fin k) → Byte
  | none => 0xFF
  | some i => byteN i.1

/-- An absent story number is FFFFh (R159). -/
def optNumber : Option (BitVec 16) → BitVec 16
  | none => 0xFFFF
  | some n => n

/-- The flag byte (R173). -/
def flagByte (attn : Bool) (r : Report) : Byte :=
  byteN ((if attn then 1 else 0) + (if r.hdrFault then 2 else 0) + (if r.unclosed then 4 else 0)
    + (if r.unrouted then 8 else 0))

/-- The 16 bytes of a record as four words (R159, R173). -/
def composeRecord (r : Report) (attn : Bool) (lost : Nat) : List Word32 :=
  [ wordOf (byteN r.kind.code) (flagByte attn r) (optByte r.feed) (optByte r.circ),
    wordOf (optByte r.tag) (optByte r.cls) ((optNumber r.number).extractLsb' 0 8)
      ((optNumber r.number).extractLsb' 8 8),
    r.valA,
    wordOf (r.valB.extractLsb' 0 8) (r.valB.extractLsb' 8 8) (byteN lost) (byteN (lost / 256)) ]

/-- The attention mask holds the kind's flag (R163). -/
def State.flagged (s : State) (k : ReportKind) : Bool := s.applied.attnMask.getLsbD k.code

/-- The ring can take a record: it is enabled and not full (R159). -/
def State.ringOpen (s : State) : Bool :=
  match s.applied.ring with
  | none => false
  | some w => decide (s.writer.count < ringSlots w.code)

/-- RESET_DONE has become visible or has been dropped: the request byte is written back (R34). -/
def State.resetSettled (s : State) : State :=
  if s.mirror.resetWait then
    let s := s.listZero 4
    { s with mirror := { s.mirror with resetWait := false } }
  else s

/-- A report is dropped and counted (R158, R159, R162). -/
def State.dropReport (s : State) (r : Report) : State :=
  let s := s.setWriter { s.writer with lost := satInc 65535 s.writer.lost }
  if r.kind == .resetDone then s.resetSettled else s

/-- The Writer begins a report with no record in writing (R159). -/
def State.beginReport (s : State) (r : Report) : State :=
  if s.ringOpen then
    s.setWriter { s.writer with
      rec_ := some
        { slot := s.writer.tail
          words := composeRecord r (s.flagged r.kind) s.writer.lost
          flag := s.flagged r.kind
          done := 0
          isReset := r.kind == .resetDone }
      lost := 0 }
  else s.dropReport r

/-- A block posts a report (R158). -/
def State.post (s : State) (r : Report) : State :=
  if s.writer.rec_.isNone && s.writer.queue.isEmpty then s.beginReport r
  else if 4 ≤ s.writer.queue.length then s.dropReport r
  else s.setWriter { s.writer with queue := s.writer.queue ++ [r] }

/-- Begins the oldest queued reports until one is in writing or none is queued (R159, R160). -/
def State.beginQueued (s : State) : List Report → State
  | [] => s
  | r :: rs =>
    if s.writer.rec_.isSome then s
    else State.beginQueued ((s.setWriter { s.writer with queue := rs }).beginReport r) rs

/-- The Writer goes on with its queue. -/
def State.pumpReports (s : State) : State := s.beginQueued s.writer.queue

/-- The slot after slot j of the ring. -/
def State.nextSlot (s : State) (j : Nat) : Nat :=
  match s.applied.ring with
  | none => 0
  | some w => (j + 1) % ringSlots w.code

/-- The record in writing becomes visible (R160), before the next queued report is begun. -/
def State.recordVisible (s : State) (j : RecordJob) : State :=
  let w := s.writer
  let s := s.setWriter { w with
    rec_ := none
    tail := s.nextSlot w.tail
    count := w.count + 1
    flags := w.flags ++ [j.flag]
    attn := if j.flag then w.attn + 1 else w.attn }
  if j.isReset then s.resetSettled else s

/-- The head record is consumed (R161). -/
def State.consumeHead (s : State) : State :=
  let w := s.writer
  s.setWriter { w with
    head := s.nextSlot w.head
    count := w.count - 1
    flags := w.flags.tail
    attn := if w.flags.headD false then w.attn - 1 else w.attn }

/-! ### The memory-port arbiter (R9 to R11) -/

/-- The cyclic order of R11. -/
def internalOrder : List Internal :=
  [.fetcher 0, .fetcher 1, .fetcher 2, .fetcher 3, .fetcher 4, .fetcher 5, .fetcher 6, .fetcher 7,
   .writer, .mirror]

/-- The order of choice: the requesters after the pointer, and the pointer's own last (R11). -/
def orderAfter (p : Internal) : List Internal :=
  (internalOrder.dropWhile (· != p)).drop 1 ++ internalOrder.takeWhile (· != p) ++ [p]

/-- The host transaction in flight at the memory port. -/
def State.hostTxn (s : State) : Option Txn :=
  match s.bus.port with
  | some { by_ := .host, txn := t, orphan := _ } => some t
  | _ => none

/-- With the port free: the internal requester has a request waiting. -/
def State.waits (s : State) : Internal → Bool
  | .fetcher n => (s.circ n).ftc.fetch.isSome
  | .writer => s.writer.rec_.isSome
  | .mirror => s.mirror.req.isSome

/-- The page offset of snapshot word k in writing order: circuit records, story summaries, header (R30). -/
def snapOffset (k : Nat) : Nat := if k < 416 then 0x810 + 4 * k else 0x800 + 4 * (k - 416)

/-- A read of the bus word at an address. The part's own reads drive all four byte enables, which no rule states (log entry
50); a read returns all four lanes whatever they are (R1). -/
def readTxn (a : Nat) : Txn := { write := false, addr := BitVec.ofNat 32 a, be := 0xF, data := 0 }

/-- A write of the bus word at an address. -/
def writeTxn (a : Nat) (be : BitVec 4) (d : Word32) : Txn :=
  { write := true, addr := BitVec.ofNat 32 a, be := be, data := d }

/-- Puts a transaction at the memory port. -/
def State.occupy (s : State) (by_ : Requester) (t : Txn) : State :=
  { s with bus := { s.bus with port := some { by_ := by_, txn := t, orphan := false } } }

/-- The port is granted to fetcher n's next word. -/
def State.grantFetch (s : State) (n : Circ) : State :=
  match (s.circ n).ftc.fetch with
  | none => s
  | some f => s.occupy (.fetcher n) (readTxn (f.base + f.off + f.bytes.length))

/-- The port is granted to the next word of the record in writing. -/
def State.grantRecord (s : State) : State :=
  match s.writer.rec_, s.applied.ring with
  | some j, some w =>
    s.occupy .writer (writeTxn (w.base + 16 * j.slot + 4 * j.done) 0xF (j.words.getD j.done 0))
  | _, _ => s

/-- The port is granted to the Control Mirror's placed request; a listed word leaves the list (R18). -/
def State.grantMirror (s : State) : State :=
  let s0 := { s with mirror := { s.mirror with req := none } }
  match s.mirror.req with
  | none => s
  | some .list =>
    match s.mirror.writeList with
    | [] => s0
    | w :: ws =>
      State.occupy { s0 with mirror := { s0.mirror with writeList := ws } } (.mirror .list)
        (writeTxn (s.page + w.off) w.be w.data)
  | some .snap =>
    match s.mirror.snap with
    | none => s0
    | some j => s0.occupy (.mirror .snap)
        (writeTxn (s.page + snapOffset j.next) 0xF (j.words.getD j.next 0))
  | some .load =>
    match s.mirror.load with
    | none => s0
    | some j => s0.occupy (.mirror .load) (readTxn (s.page + j.next))

/-- The port is granted to an internal requester: pointer set, streak 0 (R10, R11). -/
def State.grantInternal (s : State) (i : Internal) : State :=
  let s := { s with bus := { s.bus with rr := i, streak := 0 } }
  match i with
  | .fetcher n => s.grantFetch n
  | .writer => s.grantRecord
  | .mirror => s.grantMirror

/-- The port is granted to the host (R10). -/
def State.grantHost (s : State) (t : Txn) (streak : Nat) : State :=
  State.occupy { s with bus := { s.bus with hostWaiting := none, streak := streak } } .host t

/-- With the port free and RESET released, the arbiter grants at once among the waiting requests (R10). -/
def State.grant (s : State) : State :=
  if s.bus.resetAsserted || s.bus.port.isSome then s
  else
    match s.bus.hostWaiting, (orderAfter s.bus.rr).find? s.waits with
    | none, none => s
    | none, some i => s.grantInternal i
    | some t, none => s.grantHost t 0
    | some t, some i => if s.bus.streak < 8 then s.grantHost t (s.bus.streak + 1) else s.grantInternal i

/-- The Control Mirror's request in flight at the port. -/
def State.mirrorInFlight (s : State) : Bool :=
  match s.bus.port with
  | some { by_ := .mirror _, txn := _, orphan := _ } => true
  | _ => false

/-- The kind of access the Mirror would place next (R18). -/
def State.mirrorWork (s : State) : Option MirrorWork :=
  if !s.mirror.writeList.isEmpty then some .list
  else if s.mirror.snap.isSome then some .snap
  else if s.mirror.load.isSome then some .load
  else none

/-- The Control Mirror places its next request when it has none waiting or in flight (R18). -/
def State.placeMirror (s : State) : State :=
  if s.mirror.req.isSome || s.mirrorInFlight || s.bus.resetAsserted then s
  else { s with mirror := { s.mirror with req := s.mirrorWork } }

/-- A held host request becomes the waiting one when no host request waits or is in flight (R9; log entry 22). -/
def State.acceptHost (s : State) : State :=
  match s.bus.hostHeld with
  | none => s
  | some t =>
    if s.bus.resetAsserted || s.bus.hostWaiting.isSome || s.hostTxn.isSome then s
    else { s with bus := { s.bus with hostWaiting := some t, hostHeld := none } }

/-- The end of an event: a held host request is accepted, the Mirror places its request and the arbiter grants a free
port. -/
def State.settleBus (s : State) : State := s.acceptHost.placeMirror.grant

/-- The port becomes free. -/
def State.freePort (s : State) : State := { s with bus := { s.bus with port := none } }

end Sys2Proof.Machine
end

