-- ==== Sys2Proof/Machine/Apply.lean ====
section
/-! DEFINITION. The apply: validation, the window and ring parts, vacated parts and completion
(sections 2.2 and 10.5). -/

namespace Sys2Proof.Machine

/-! ### Validation (R20) -/

/-- A staged or applied region with its entry number: feeds 0 to 11, the report ring 12 (R20). -/
structure Region where
  entry : Nat
  base : Nat
  size : Nat
deriving DecidableEq, Repr

def regionOfFeed (f : Feed) : Option Win → List Region
  | none => []
  | some w => [{ entry := f.1, base := w.base, size := w.feedSize }]

def regionOfRing : Option Win → List Region
  | none => []
  | some w => [{ entry := 12, base := w.base, size := w.ringBytes }]

/-- The enabled staged regions in entry order. -/
def stagedRegions (m : Memory) : List Region :=
  (allFeeds.flatMap fun f => regionOfFeed f (stagedWin m f)) ++ regionOfRing (stagedRing m)

/-- The regions applied. -/
def State.appliedRegions (s : State) : List Region :=
  (allFeeds.flatMap fun f => regionOfFeed f (s.fcfg f).win) ++ regionOfRing s.applied.ring

/-- Region r overlaps the control page or a region of another entry. -/
def Region.clashes (r : Region) (page : Nat) (rs : List Region) : Bool :=
  overlap r.base r.size page pageSize
    || rs.any fun q => q.entry != r.entry && overlap r.base r.size q.base q.size

/-- The refused entry: the lowest-numbered staged region that overlaps some other region (R20). -/
def State.refusedEntry (s : State) : Option Nat :=
  let rs := stagedRegions s.mirror.staging
  (rs.find? fun r => r.clashes s.page rs).map Region.entry

/-! ### Taking parts (R24, R164) -/

def State.setMarkWin (s : State) (f : Feed) (p : PartMark) : State :=
  { s with mirror := { s.mirror with pendWin := vset s.mirror.pendWin f p } }
def State.setMarkRing (s : State) (p : PartMark) : State :=
  { s with mirror := { s.mirror with pendRing := p } }
def State.setMarkCirc (s : State) (n : Circ) (p : Bool) : State :=
  { s with mirror := { s.mirror with pendCirc := vset s.mirror.pendCirc n p } }

/-- Feed f's applied region is replaced, and its intake context and ring account start afresh (R24, R85). -/
def State.setWindow (s : State) (f : Feed) (w : Option Win) : State :=
  ((s.setFcfg f { s.fcfg f with win := w }).setCtx f FeedCtx.start).setAcct f Account.start

/-- The report ring is replaced; the queue and the lost count are kept, and the queued reports are written into
the new ring or dropped (R24, R164). -/
def State.setRing (s : State) (w : Option Win) : State :=
  let s := { s with applied := { s.applied with ring := w } }
  State.pumpReports (s.setWriter { s.writer with
    head := 0, tail := 0, count := 0, flags := [], attn := 0 })

/-- The region of a window part, if any, overlaps the control page or another applied region (R23). -/
def State.winBlocked (s : State) (f : Feed) (w : Option Win) : Bool :=
  (regionOfFeed f w).any fun r => r.clashes s.page s.appliedRegions

def State.ringBlocked (s : State) (w : Option Win) : Bool :=
  (regionOfRing w).any fun r => r.clashes s.page s.appliedRegions

/-- A vacated feed part is taken if its staged region is free (R23). -/
def State.retryWin (s : State) (f : Feed) : State :=
  if vget s.mirror.pendWin f == .vacated && !(s.winBlocked f (stagedWin s.mirror.staging f)) then
    (s.setWindow f (stagedWin s.mirror.staging f)).setMarkWin f .clear
  else s

/-- A vacated ring part is taken if its staged region is free (R23). -/
def State.retryRing (s : State) : State :=
  if s.mirror.pendRing == .vacated && !(s.ringBlocked (stagedRing s.mirror.staging)) then
    (s.setRing (stagedRing s.mirror.staging)).setMarkRing .clear
  else s

/-- Every vacated part is re-examined once. -/
def State.retryAll (s : State) : State := (allFeeds.foldl State.retryWin s).retryRing

def State.retryTimes : Nat → State → State
  | 0, s => s
  | k + 1, s => State.retryTimes k s.retryAll

/-- The re-examination that follows each part taken or dropped, repeated while it takes parts: thirteen entries
need at most thirteen rounds (R22, R23). -/
def State.reexamine (s : State) : State :=
  if s.mirror.pendRing == .vacated || allFeeds.any fun f => vget s.mirror.pendWin f == .vacated
  then s.retryTimes 13 else s

/-- The pending set is empty. -/
def State.noneWaiting (s : State) : Bool :=
  s.mirror.pendRing == .clear && (allFeeds.all fun f => vget s.mirror.pendWin f == .clear)
    && (allCircs.all fun n => !(vget s.mirror.pendCirc n))

/-- An apply completes when its pending set becomes empty (R26). -/
def State.applyCheck (s : State) : State :=
  if s.mirror.applyPending && s.noneWaiting then
    let s := s.listAck s.mirror.genValid 2 0xFF
    let s := { s with mirror := { s.mirror with applyPending := false } }
    s.post { kind := .applyDone, valA := s.mirror.genValid.setWidth 32,
             valB := s.mirror.genSeen.setWidth 16 }
  else s

/-- A feed window part whose condition holds: dropped, vacated or taken (R22, R23). -/
def State.examineWin (s : State) (f : Feed) : State :=
  let w := stagedWin s.mirror.staging f
  if w = (s.fcfg f).win then ((s.setMarkWin f .clear).reexamine).applyCheck
  else if s.winBlocked f w then (s.setWindow f none).setMarkWin f .vacated
  else (((s.setWindow f w).setMarkWin f .clear).reexamine).applyCheck

/-- The report ring part whose condition holds: dropped, vacated or taken (R22, R23). -/
def State.examineRing (s : State) : State :=
  let w := stagedRing s.mirror.staging
  if w = s.applied.ring then ((s.setMarkRing .clear).reexamine).applyCheck
  else if s.ringBlocked w then (s.setRing none).setMarkRing .vacated
  else (((s.setRing w).setMarkRing .clear).reexamine).applyCheck

/-- Feed f has reached its boundary: a waiting window part whose condition holds is examined (R22). -/
def State.feedBoundary (s : State) (f : Feed) : State :=
  if vget s.mirror.pendWin f == .waiting && s.winCond f then s.examineWin f else s

/-- The report ring has reached its boundary (R22, R161). -/
def State.ringBoundary (s : State) : State :=
  if s.mirror.pendRing == .waiting && s.ringCond then s.examineRing else s

end Sys2Proof.Machine
end

