-- ==== Sys2Proof/Machine/StoryTable.lean ====
section
/-! DEFINITION. Ring accounts, retirement, abandonment, the number index and the kill history
(chapters 4 and 5). -/

namespace Sys2Proof.Machine

/-! ### Accounts (R77, R78, R80) -/

/-- FEED_HIGH and FEED_LOW carry the occupancy and the number of stories in the feed story list (R166). -/
def State.levelReport (s : State) (k : ReportKind) (f : Feed) : Report :=
  { kind := k, feed := some f, valA := BitVec.ofNat 32 (s.acct f).occ,
    valB := BitVec.ofNat 16 (s.flist f).length }

/-- The warning test (R80). -/
def State.warnTest (s : State) (f : Feed) : State :=
  let a := s.acct f
  if a.warn then
    if a.occ ≤ s.lowLevel f then
      State.post (s.setAcct f { a with warn := false }) (s.levelReport .feedLow f)
    else s
  else if s.warnLevel f ≤ a.occ then
    State.post (s.setAcct f { a with warn := true }) (s.levelReport .feedHigh f)
  else s

/-- The release pointer and the occupancy R77 fixes for a feed story list and a cursor. -/
def State.accountOf (s : State) (f : Feed) : Nat × Nat :=
  match s.flist f with
  | [] => ((s.ctx f).cursor, 0)
  | t :: _ =>
    match s.story t with
    | none => ((s.ctx f).cursor, 0)
    | some st =>
      let d := ringDist (s.fsize f) st.openOff (s.ctx f).cursor
      (st.openOff, if d = 0 then s.fsize f else d)

/-- Sets the account to what R77 gives. A disabled feed's account receives no event (R76). -/
def State.setAccount (s : State) (f : Feed) : State :=
  if (s.fcfg f).win = none then s
  else s.setAcct f { s.acct f with release := (s.accountOf f).1, occ := (s.accountOf f).2 }

/-- The recomputation of R78, followed by the warning test if the occupancy changed. It takes the cursor as it stands,
so partway through a taken write the occupancy moves by the bytes parsed so far, at an admission to a list that is not
empty too (log entry 36). -/
def State.recompute (s : State) (f : Feed) : State :=
  let t := s.setAccount f
  if (t.acct f).occ = (s.acct f).occ then t else t.warnTest f

/-- The tag leaves its feed story list; a blocked tag that names it becomes none (R82). -/
def State.unlink (s : State) (f : Feed) (t : Tag) : State :=
  let s := s.setFlist f ((s.flist f).filter (· != t))
  if (s.acct f).blocked = some t then s.setAcct f { s.acct f with blocked := none } else s

/-! ### The number index and the kill history (R60, R65, R74) -/

def IndexEntry.keyIs (e : IndexEntry) (f : Feed) (n : BitVec 16) : Bool := e.feed == f && e.number == n

/-- The tag a key maps to. -/
def State.indexFind (s : State) (f : Feed) (n : BitVec 16) : Option Tag :=
  (s.index.find? fun e => e.keyIs f n).map IndexEntry.tag

/-- The key maps to the tag from now on. -/
def State.indexSet (s : State) (f : Feed) (n : BitVec 16) (t : Tag) : State :=
  { s with index := { feed := f, number := n, tag := t } :: s.index.filter fun e => !(e.keyIs f n) }

/-- The keys that map to the tag are removed (R72, step 2). -/
def State.indexErase (s : State) (t : Tag) : State :=
  { s with index := s.index.filter fun e => e.tag != t }

/-- A history entry is added at the head; beyond 64 the oldest is dropped (R74). -/
def State.historyAdd (s : State) (h : HistEntry) : State :=
  { s with history := (h :: s.history).take 64 }

/-- The place of the newest history entry of a feed and number. -/
def historyPlace (f : Feed) (n : BitVec 16) : List HistEntry → Nat → Option Nat
  | [], _ => none
  | h :: hs, i => if h.feed = f ∧ h.number = n then some i else historyPlace f n hs (i + 1)

/-! ### Retirement (R72, R73) -/

/-- Retirement step 1: a numbered story with a non-empty sent set leaves a history entry. -/
def State.retireHistory (s : State) (st : Story) : State :=
  match st.number with
  | none => s
  | some n =>
    if st.sent = 0 then s
    else s.historyAdd { feed := st.feed, number := n, slug := st.slug, cls := st.cls, circs := st.sent }

/-- STORY_RETIRED (R72, R165). -/
def retiredReport (t : Tag) (st : Story) : Report :=
  { kind := .storyRetired, feed := some st.feed, tag := some t, cls := some st.cls, number := st.number,
    valA := wordOf st.sent (byteN st.state.code) 0 0, valB := BitVec.ofNat 16 st.takes,
    unclosed := st.unclosed }

/-- The story retires (R72), and the Mirror is told if its feed is left with no live story (R73). -/
def State.retire (s : State) (t : Tag) (st : Story) : State :=
  let s := s.retireHistory st
  let s := s.indexErase t
  let s := { s with admission := s.admission.filter (· != t) }
  let s := (s.unlink st.feed t).recompute st.feed
  let s := s.post (retiredReport t st)
  let s := s.setStory t none
  s.feedBoundary st.feed

/-- The retirement test (R72). -/
def State.retireTest (s : State) (t : Tag) : State :=
  match s.story t with
  | none => s
  | some st => if st.mayRetire then s.retire t st else s

/-! ### Abandonment (R106) -/

/-- DELIVERY_ABANDONED, DELIVERY_DONE: what both fill (R165). -/
def deliveryReport (k : ReportKind) (t : Tag) (st : Story) (n : Circ) (a b : Nat) : Report :=
  { kind := k, feed := some st.feed, circ := some n, tag := some t, cls := some st.cls,
    number := st.number, valA := BitVec.ofNat 32 a, valB := BitVec.ofNat 16 b }

/-- The delivery becomes ABANDONED and DELIVERY_ABANDONED is posted (R106), before the table's retirement
test. -/
def State.abandonOnly (s : State) (t : Tag) (n : Circ) : State :=
  match s.story t with
  | none => s
  | some st =>
    match st.delivery n with
    | none => s
    | some d =>
      State.post (s.setStory t (some (st.setDelivery n { d with state := .abandoned })))
        (deliveryReport .deliveryAbandoned t st n d.chars d.subs)

/-- A delivery made ABANDONED: posted, then reported to the Story Table (R106, R72). -/
def State.abandon (s : State) (t : Tag) (n : Circ) : State := (s.abandonOnly t n).retireTest t

/-! ### The notice pool (R100, R101) -/

/-- The lowest-numbered free entry. -/
def State.freeNotice (s : State) : Option Slot32 := allSlots.find? fun i => (s.notice i).isNone

/-- A notice reference is released; an entry without references becomes free (R101). -/
def State.releaseRef (s : State) (i : Slot32) : State :=
  match s.notice i with
  | none => s
  | some x => s.setNotice i (if x.refs ≤ 1 then none else some { x with refs := x.refs - 1 })

/-- What a notice is made from: a live story's record or a history entry (R100, R69). -/
structure NoticeSource where
  feed : Feed
  tag : Option Tag
  number : Option (BitVec 16)
  slug : List Byte
deriving DecidableEq, Repr

def sourceOf (t : Tag) (st : Story) : NoticeSource :=
  { feed := st.feed, tag := some t, number := st.number, slug := st.slug }

/-- NOTICE_DROPPED (R100, R165). -/
def noticeDropped (k : NoticeKind) (x : NoticeSource) (count : Nat) : Report :=
  { kind := .noticeDropped, feed := some x.feed, tag := x.tag, number := x.number,
    valA := BitVec.ofNat 32 k.code, valB := BitVec.ofNat 16 count }

/-- The pool entry filled for a kill, with the feed code in force (R100). -/
def State.noticeFor (s : State) (k : NoticeKind) (x : NoticeSource) (refs : Nat) : Notice :=
  { kind := k, codeA := (s.fcfg x.feed).codeA, codeB := (s.fcfg x.feed).codeB, number := x.number,
    slug := x.slug, refs := refs }

/-! ### Queue order (R89, R90) -/

/-- A new item goes after the last item whose class number is at most its own (R90). -/
def State.insertNew (s : State) (i : Item) : List Item → List Item
  | [] => [i]
  | q :: qs => if s.rank i < s.rank q then i :: q :: qs else q :: s.insertNew i qs

/-- A returned item goes before the first item of its own class number, else after the last of a lower one
(R90). -/
def State.insertBack (s : State) (i : Item) : List Item → List Item
  | [] => [i]
  | q :: qs => if s.rank i ≤ s.rank q then i :: q :: qs else q :: s.insertBack i qs

def State.enqueueNew (s : State) (n : Circ) (i : Item) : State :=
  s.updSch n fun c => { c with queue := s.insertNew i c.queue }

def State.enqueueBack (s : State) (n : Circ) (i : Item) : State :=
  s.updSch n fun c => { c with queue := s.insertBack i c.queue }

def State.dequeue (s : State) (n : Circ) (i : Item) : State :=
  s.updSch n fun c => { c with queue := c.queue.filter (· != i) }

/-- A notice for one circuit alone (R104, R155, R156), queued there. -/
def State.noticeHere (s : State) (n : Circ) (k : NoticeKind) (x : NoticeSource) : State :=
  match s.freeNotice with
  | none => s.post (noticeDropped k x 1)
  | some i => (s.setNotice i (some (s.noticeFor k x 1))).enqueueNew n (.notice i)

end Sys2Proof.Machine
end

