-- ==== Sys2Proof/Machine/Packing.lean ====
section
/-! DEFINITION. The packing computation: words, lines, newlines, service lines and the handing of characters
(chapter 7), and the lookahead (R144, R145). -/

namespace Sys2Proof.Machine

/-! ### Placement (R114, R116, R117) -/

/-- The pending spaces, handed when a word is placed. -/
def placeSpaces (n : Nat) : List Placed := List.replicate n { sym := .space, mark := .none }

/-- The characters of a word; the last one ends the word if `ended`. -/
def placeChars (ended : Bool) : List PChar → List Placed
  | [] => []
  | [c] => [{ sym := .print c, mark := if ended then .wordEnd else .none }]
  | c :: cs => { sym := .print c, mark := .none } :: placeChars ended cs

/-- The last characters of a newline with k more fills to hand. -/
def placeFills (cause : NlCause) : Nat → List Placed
  | 0 => []
  | 1 => [{ sym := .fill, mark := .newline cause }]
  | k + 1 => { sym := .fill, mark := .none } :: placeFills cause k

/-- A newline: CR, LF and the carriage fills; its last character completes it (R114). -/
def placeNewline (fills : Nat) (cause : NlCause) : List Placed :=
  { sym := .cr, mark := .none } ::
    (if fills = 0 then [{ sym := .lf, mark := .newline cause }]
     else { sym := .lf, mark := .none } :: placeFills cause fills)

/-- The bare LF of the blank line (R114, R127). -/
def placeBlank : List Placed := [{ sym := .lf, mark := .blankEnd }]

/-- R116 for a word with column c and s pending spaces; the newline of a split has the cause of a fold (log entry 56):
what is handed, and how many of the word's characters that places. `ended` is false for a word whose end has not been
seen (R117). -/
def placeWord (cfg : CircCfg) (c s : Nat) (ended : Bool) (why : NlCause) (word : List PChar) :
    List Placed × Nat :=
  if cfg.width = 0 ∨ c + s + word.length ≤ cfg.width then
    (placeSpaces s ++ placeChars ended word, word.length)
  else if 0 < c then (placeNewline cfg.fill why, 0)
  else if word.length ≤ cfg.width then (placeChars ended word, word.length)
  else (placeChars false (word.take cfg.width) ++ placeNewline cfg.fill why, cfg.width)

/-- One more pending space: dropped at column 0 on a SOFT line, at most 255 (R115). -/
def addSpace (column pend : Nat) (hard : Bool) : Nat :=
  if column = 0 && !hard then pend else satInc 255 pend

/-! ### Service lines (R125, R126) -/

/-- The leading word of a token list. -/
def leadingWord : List SvcTok → List PChar
  | .print c :: ts => c :: leadingWord ts
  | _ => []

/-- One request of a service line for its next characters: the tokens are read until something is placed; at
its end the line's newline is (R126). -/
def svcStep (cfg : CircCfg) (d : Sender) : List SvcTok → Sender
  | [] => { d with svc := some [], pend := 0, plan := placeNewline cfg.fill .svcLast }
  | .space :: ts => svcStep cfg { d with pend := addSpace d.column d.pend d.hard } ts
  | .skip :: ts => svcStep cfg d ts
  | .print c :: ts =>
    let w := c :: leadingWord ts
    let p := placeWord cfg d.column d.pend true .svcFold w
    { d with plan := p.1, pend := 0, svc := some ((.print c :: ts).drop p.2) }

/-! ### The text (R110, R115 to R122, R154) -/

/-- A byte of the lookahead as the Sender finds it. -/
inductive LookByte
  | byte (b : Byte)
  | lost (u : LUnit)
  | missing
deriving DecidableEq, Repr

/-- The byte at a ring offset in the lookahead (R117, R144). -/
def lookAt (p : Nat) : List LUnit → LookByte
  | [] => .missing
  | u :: us =>
    if u.off = p / 16 * 16 ∧ u.start ≤ p % 16 ∧ p % 16 < u.lim then
      (if u.lost then .lost u else .byte (u.data.getD (p % 16) 0))
    else lookAt p us

/-- What the text is read with: the circuit's entry, the ring size, the story's text end and whether it is OPEN,
and the lookahead. -/
structure TextEnv where
  cfg : CircCfg
  size : Nat
  textEnd : Nat
  isOpen : Bool
  look : List LUnit

/-- What a request of the text comes to. -/
inductive TextSig
  /-- A character is ready in the plan. -/
  | ready
  /-- Nothing is ready: the delivery waits for copy or for a fetch. -/
  | nothing
  /-- A TAKE mark was read at column 0 (R120). -/
  | takeRead
  /-- The replay has reached the captured next unsent offset (R151). -/
  | replayed
  /-- The story's end is reached (R118). -/
  | atEnd
  /-- The read position has reached a lost unit, the held word placed (R154). -/
  | lost (u : LUnit)
deriving DecidableEq, Repr

/-- The next unsent offset while no word is held (R123). -/
def Sender.syncUnsent (d : Sender) : Sender :=
  if d.held.isEmpty then { d with nextUnsent := d.readPos } else d

/-- The read position moves past a byte (R110). -/
def Sender.advance (d : Sender) (size : Nat) : Sender :=
  Sender.syncUnsent { d with readPos := (d.readPos + 1) % size }

/-- The line origin when a word's first characters are placed: at column 0 the word's first byte, or the first of
the pending spaces handed before it (R123). -/
def originAt (d : Sender) (s : Nat) : Origin :=
  if d.column = 0 then .text (if s = 0 then d.nextUnsent else d.pendOff) else d.origin

/-- The spaces a placement hands: all that are pending, or none (R116). -/
def spacesKept (cfg : CircCfg) (c s len : Nat) : Nat :=
  if cfg.width = 0 ∨ c + s + len ≤ cfg.width then s else 0

/-- The held word is placed (R116, R117); characters not placed stay held as a new word. -/
def Sender.placeHeld (d : Sender) (e : TextEnv) (ended : Bool) : Sender :=
  let p := placeWord e.cfg d.column d.pend ended .fold d.held
  Sender.syncUnsent
    { d with
      plan := p.1
      held := d.held.drop p.2
      nextUnsent := (d.nextUnsent + p.2) % e.size
      pend := 0
      origin := if p.2 = 0 then d.origin
        else originAt d (spacesKept e.cfg d.column d.pend d.held.length)
      originDir := if p.2 = 0 ∨ d.column ≠ 0 then d.originDir else false }

/-- The replay has reached its end (R151). -/
def Sender.replayOver (d : Sender) (size : Nat) : Bool :=
  match d.replay with
  | none => false
  | some (o, t) => decide (ringDist size o t ≤ ringDist size o d.nextUnsent)

/-- A byte whose token ends a held word or, with no word held, acts by its kind (R115, R119 to R121). -/
def Sender.takeToken (d : Sender) (e : TextEnv) : Token → Sender × Option TextSig
  | .print c => (Sender.advance { d with held := d.held ++ [c] } e.size, none)
  | .space =>
    let d' := { d with pend := addSpace d.column d.pend d.hard,
                       pendOff := if d.pend = 0 then d.readPos else d.pendOff }
    (d'.advance e.size, none)
  | .newline =>
    let d' := Sender.advance { d with pend := 0 } e.size
    if d.column = 0 && d.bare then (d', none)
    else ({ d' with plan := placeNewline e.cfg.fill .hard }, some .ready)
  | .take =>
    let d' := Sender.advance { d with pend := 0 } e.size
    if d.column = 0 then (d', some .takeRead)
    else ({ d' with plan := placeNewline e.cfg.fill .take }, some .ready)
  | .kill => (Sender.advance { d with inDirective := true } e.size, none)
  | .skip => (d.advance e.size, none)

/-- The token is a printing character. -/
def Token.prints : Token → Bool
  | .print _ => true
  | _ => false

/-- The text is read from the read position until something is ready or nothing more can be read. The fuel
bounds the bytes read in one request; a lookahead holds 96. A lost unit ends a skipped directive (log entry 60). -/
def textStep (e : TextEnv) : Nat → Sender → Sender × TextSig
  | 0, d => (d, .nothing)
  | k + 1, d =>
    if d.held.isEmpty && d.replayOver e.size then (d, .replayed)
    else if heldTooLong e.cfg.width d.held.length then (d.placeHeld e false, .ready)
    else if d.readPos = e.textEnd then
      if e.isOpen then (d, .nothing)
      else if d.held.isEmpty then ({ d with pend := 0 }, .atEnd)
      else (d.placeHeld e true, .ready)
    else
      match lookAt d.readPos e.look with
      | .missing => (d, .nothing)
      | .lost u => if d.held.isEmpty then ({ d with pend := 0, inDirective := false }, .lost u)
        else (d.placeHeld e true, .ready)
      | .byte b =>
        if d.inDirective && isDigit b then textStep e k (d.advance e.size)
        else
          let d := { d with inDirective := false }
          let t := tokenOf b
          if t.prints || d.held.isEmpty then
            match d.takeToken e t with
            | (d', none) => textStep e k d'
            | (d', some sig) => (d', sig)
          else (d.placeHeld e true, .ready)

/-! ### Handing (R111 to R113) -/

/-- One more printing position; the column never exceeds a width above 0, and saturates at 255 without one. -/
def bumpColumn (width column : Nat) : Nat := satInc (if width = 0 then 255 else width) column

/-- The fill code (R113). -/
def fillCode (p : Option Plane) : Code5 := (p.getD .ltr).shift

/-- Hands the first placed character, or the shift code it needs first (R111). Answers the code, the completion
mark, and whether an unrepresentable byte's ? was handed. -/
def Sender.handFirst (d : Sender) (cfg : CircCfg) : Option (Sender × Code5 × Mark × Bool) :=
  match d.plan with
  | [] => none
  | p :: ps =>
    match p.sym with
    | .print c =>
      if d.plane = some c.plane then
        some ({ d with plan := ps, column := bumpColumn cfg.width d.column }, c.code, p.mark, c.subst)
      else some ({ d with plane := some c.plane }, c.plane.shift, .none, false)
    | .space =>
      some ({ d with
        plan := ps
        column := bumpColumn cfg.width d.column
        plane := if cfg.usos && d.plane == some .fig then some .ltr else d.plane },
        codeSpace, p.mark, false)
    | .cr => some ({ d with plan := ps }, codeCr, p.mark, false)
    | .lf => some ({ d with plan := ps }, codeLf, p.mark, false)
    | .fill =>
      some ({ d with plan := ps, plane := some (d.plane.getD .ltr) }, fillCode d.plane, p.mark, false)

/-! ### Unplacing -/

/-- The printing characters at the front of a plan, after its leading spaces. -/
def plannedChars : List Placed → List PChar
  | { sym := .print c, mark := _ } :: ps => c :: plannedChars ps
  | _ => []

/-- The leading spaces of a plan. -/
def plannedSpaces : List Placed → Nat
  | { sym := .space, mark := _ } :: ps => plannedSpaces ps + 1
  | _ => 0

/-- Takes back a word placed on a line that has printed nothing yet, so that it is placed again under a new entry
(R109, R124; log entry 12). Above column 0 the word is begun: the rest of it, with the newline of a split, goes on as it
was placed (R116, R150), also past a narrower width (log entry 47). A newline in the plan before any character stays. -/
def Sender.unplace (d : Sender) (size : Nat) : Sender :=
  let k := plannedSpaces d.plan
  let w := plannedChars (d.plan.drop k)
  if d.column ≠ 0 ∨ w.isEmpty then d
  else if d.phase = .text then
    { d with plan := [], pend := d.pend + k, held := w ++ d.held,
             nextUnsent := (d.nextUnsent + size - w.length) % size }
  else
    match d.svc with
    | none => d
    | some ts => { d with plan := [], pend := d.pend + k, svc := some (w.map SvcTok.print ++ ts) }

/-- The cause of the newline a plan ends with. -/
def planCause : List Placed → Option NlCause
  | [] => none
  | { sym := _, mark := .newline k } :: _ => some k
  | { sym := _, mark := .none } :: ps => planCause ps
  | { sym := _, mark := .wordEnd } :: ps => planCause ps
  | { sym := _, mark := .blankEnd } :: ps => planCause ps

/-- A plan whose newline, if it has one not begun, is placed again with a carriage fill. -/
def refillPlan (fill : Nat) : List Placed → List Placed
  | [] => []
  | p :: ps =>
    if p.sym = .cr then
      match planCause ps with
      | none => p :: ps
      | some k => placeNewline fill k
    else p :: refillPlan fill ps

/-- A newline placed and not begun is placed again with the carriage fill now in force (R124). -/
def Sender.refill (d : Sender) (fill : Nat) : Sender := { d with plan := refillPlan fill d.plan }

/-! ### The lookahead (R144, R145) -/

/-- The unit that holds a ring offset. -/
def unitOf (p : Nat) : Nat := p / 16 * 16

/-- Units the read position has passed leave the lookahead. -/
def pruneUnits (readPos : Nat) : List LUnit → List LUnit
  | [] => []
  | u :: us => if u.off = unitOf readPos then u :: us else pruneUnits readPos us

/-- The first byte the lookahead does not hold. -/
def frontier (readPos size : Nat) : List LUnit → Nat
  | [] => readPos
  | [u] => (u.off + u.lim) % size
  | _ :: us => frontier readPos size us

/-- How many distinct units are held, with a unit about to be fetched: a unit held twice counts once. -/
def unitCount (next : Nat) : List LUnit → Nat
  | [] => 1
  | u :: us => (if u.off = next ∨ us.any (fun v => v.off == u.off) then 0 else 1) + unitCount next us

/-- A completed fetch enters behind the units held; the bytes of a short unit fetched again join it (R145). A
faulted one enters as a lost unit (R154). -/
def addUnit (f : Fetch) : List LUnit → List LUnit
  | [] => [{ off := f.off, start := f.start, lim := f.lim, data := f.bytes, lost := f.fault }]
  | [u] =>
    if u.off = f.off ∧ u.lost = false ∧ f.fault = false then
      [{ u with lim := f.lim, data := u.data.take u.lim ++ f.bytes.drop u.lim }]
    else [u, { off := f.off, start := f.start, lim := f.lim, data := f.bytes, lost := f.fault }]
  | u :: us => u :: addUnit f us

/-- A fetch in flight is marked to be discarded (R145). -/
def Fetcher.discard (x : Fetcher) (how : FetchFate) : Fetcher :=
  match x.fetch with
  | none => x
  | some f => { x with fetch := some { f with fate := if f.fate = .dropStale then .dropStale else how } }

end Sys2Proof.Machine
end

