-- ==== Sys2Proof/Machine/Sending.lean ====
section
/-! DEFINITION. The Sender at work on its item: fetching, selection, service lines, preemption, stops, the end of
a delivery, and what the completion of a character does (chapters 6 to 9). -/

namespace Sys2Proof.Machine

/-! ### Fetching (R144, R145) -/

/-- The request the Sender would place for the unit at the next fetch offset, when R144 lets it. -/
def State.nextFetchOf (s : State) (n : Circ) : Option Fetch :=
  let c := s.circ n
  match c.sch.tag, c.ftc.fetch with
  | some t, none =>
    match s.story t with
    | none => none
    | some st =>
      let size := s.fsize st.feed
      let p := frontier c.snd.readPos size c.ftc.look
      let left := ringDist size p st.textEnd
      if 0 < left ∧ unitOf p = c.ftc.nextFetch ∧ unitCount (unitOf p) c.ftc.look ≤ 6 then
        some { off := unitOf p, start := p % 16, lim := min 16 (p % 16 + left), base := s.fbase st.feed,
               bytes := [], fault := false, fate := .keep }
      else none
  | _, _ => none

/-- The window size of the feed whose story circuit n serves. -/
def State.servedSize (s : State) (n : Circ) : Nat :=
  match (s.circ n).sch.tag with
  | none => 0
  | some t =>
    match s.story t with
    | none => 0
    | some st => s.fsize st.feed

/-- The Sender requests a fetch whenever the conditions of R144 hold. -/
def State.fetchTry (s : State) (n : Circ) : State :=
  match s.nextFetchOf n with
  | none => s
  | some f => s.updFtc n fun x =>
      { x with fetch := some f, nextFetch := if f.lim = 16 then (f.off + 16) % s.servedSize n else f.off }

/-! ### Service lines (R125) -/

/-- The bytes of a service line about a story (R125). -/
def State.storyLine (s : State) (st : Story) (ph : Phase) (k : NoticeKind) : List Byte :=
  let fc := s.fcfg st.feed
  let num := codeNumber fc.codeA fc.codeB st.number
  match ph with
  | .head => joinFields [classWord st.cls, num, st.slug]
  | .resume => joinFields [s.applied.prefix_, wordResuming, num]
  | .endLine => joinFields [wordEnd, num]
  | .stopLine => joinFields [s.applied.prefix_, k.word, num, st.slug]
  | .lostLine => joinFields [s.applied.prefix_, wordLost, num, st.slug]
  | _ => []

/-- The bytes of a notice line, from its pool entry (R125, R101). -/
def State.noticeLine (s : State) (x : Notice) : List Byte :=
  joinFields [s.applied.prefix_, x.kind.word, codeNumber x.codeA x.codeB x.number, x.slug]

/-- The kind of a stop order. -/
def StopOrder.kind : StopOrder → NoticeKind
  | .kill k => k
  | .clear => .kill
  | .none => .kill

/-- The composed characters of the service line circuit n stands at. -/
def State.svcLine (s : State) (n : Circ) : List Byte :=
  let c := s.circ n
  match c.sch.item with
  | none => []
  | some (.notice i) =>
    match s.notice i with
    | none => []
    | some x => s.noticeLine x
  | some (.story t) =>
    match s.story t with
    | none => []
    | some st => s.storyLine st c.snd.phase c.sch.stop.kind

/-- The line origin kind of the service line circuit n stands at (R123). -/
def State.svcKind (s : State) (n : Circ) : SvcKind :=
  let c := s.circ n
  match c.snd.phase with
  | .resume => .resume
  | .endLine => .endLine
  | .stopLine => .stop c.sch.stop.kind
  | .lostLine => .lost
  | .notice =>
    match c.sch.item with
    | some (.notice i) =>
      match s.notice i with
      | none => .notice .kill
      | some x => .notice x.kind
    | _ => .notice .kill
  | _ => .head

/-- The Sender begins a service line: composed now, on a SOFT line, its kind the line origin (R123, R126). A stop line
begun is not given up, also when a line restart sends it again (R151, R155). -/
def State.beginSvc (s : State) (n : Circ) : State :=
  s.updSnd n fun d => { d with
    svc := some ((s.svcLine n).map svcTok), origin := .svc (s.svcKind n), hard := false, pend := 0,
    stopBegun := d.stopBegun || d.phase == .stopLine }

/-! ### Leaving service -/

/-- The in-service item leaves service: the Sender's item, held word, plan and lookahead are emptied and a fetch
in flight is marked to be discarded; plane, column and pending spaces are the circuit's and stay (R97, R109,
R145). The output phase has no meaning until the next item (log entry 2). -/
def State.leaveService (s : State) (n : Circ) : State :=
  ((s.updSch n fun c => { c with item := none, stop := .none, stopMet := false }).updSnd n fun d =>
    { d with phase := .opening, plan := [], svc := none, held := [], inDirective := false,
             stopBegun := false, leave := none, replay := none }).updFtc n fun x =>
    Fetcher.discard { x with look := [] } .dropStale

/-- A notice is due on this circuit alone when a kill stop ends without its stop line and the circuit is in the
story's sent set (R104, R155, R156). -/
def State.stopNotice (s : State) (n : Circ) (t : Tag) (st : Story) (stop : StopOrder) : State :=
  match stop with
  | .kill k => if CircSet.has st.sent n then s.noticeHere n k (sourceOf t st) else s
  | .clear => s
  | .none => s

/-- The pending spaces are dropped (R97, R115, R155). -/
def State.dropPend (s : State) (n : Circ) : State := s.updSnd n fun d => { d with pend := 0 }

/-- The delivery becomes DONE: DELIVERY_DONE, a lapsed kill stop's notice, the item out of service, the table's
retirement test (R105, R156). -/
def State.deliveryDone (s : State) (n : Circ) : State :=
  match (s.circ n).sch.tag with
  | none => s
  | some t =>
    match s.story t with
    | none => s
    | some st =>
      match st.delivery n with
      | none => s
      | some d =>
        let stop := (s.circ n).sch.stop
        let s := s.setStory t (some (st.setDelivery n { d with state := .done }))
        let s := s.post (deliveryReport .deliveryDone t st n d.chars d.lines)
        let s := s.stopNotice n t st stop
        (s.leaveService n).retireTest t

/-- The stop ends: the delivery becomes ABANDONED and the circuit is free (R103, R155 step 4). -/
def State.endStop (s : State) (n : Circ) : State :=
  match (s.circ n).sch.tag with
  | none => s
  | some t => ((s.abandonOnly t n).leaveService n).retireTest t

/-- A stop place reached while the circuit is HELD, or a stop ended by a loop fault: nothing is handed, a kill
stop leaves a notice here (R104, R155). -/
def State.silentStop (s : State) (n : Circ) : State :=
  match (s.circ n).sch.tag with
  | none => s
  | some t =>
    match s.story t with
    | none => s
    | some st =>
      let stop := (s.circ n).sch.stop
      let s := s.abandonOnly t n
      let s := s.stopNotice n t st stop
      let s := (s.leaveService n).updLu n fun l => { l with capture := none }
      s.retireTest t

/-- After the stop's newline: the stop line where one is due, else the stop ends (R155 steps 3 and 4). The sent set is
tested here and not at the kill (log entry 52). -/
def State.stopLineOrEnd (s : State) (n : Circ) : State :=
  match (s.circ n).sch.tag with
  | none => s
  | some t =>
    match s.story t, (s.circ n).sch.stop with
    | some st, .kill _ =>
      if CircSet.has st.sent n then
        s.updSnd n fun d => { d with phase := .stopLine, svc := none, plan := [] }
      else s.endStop n
    | _, _ => s.endStop n

/-- A stop ends a regenerated service line: its capture record goes at the next newline handed (R151). -/
def Capture.stopped (c : Capture) : Capture :=
  if c.drop = .atServiceEnd then { c with drop := .atNewline } else c

/-- The stop place is reached on a circuit that is not HELD (R155 steps 1 and 2). -/
def State.stopHere (s : State) (n : Circ) : State :=
  let s := s.updSnd n fun d =>
    { d with held := [], pend := 0, plan := [], svc := none, inDirective := false, leave := none }
  let s := s.updSch n fun c => { c with stopMet := false }
  let s := s.updLu n fun l => { l with capture := l.capture.map Capture.stopped }
  if (s.circ n).snd.column = 0 then s.stopLineOrEnd n
  else s.updSnd n fun d =>
    { d with phase := .stopNewline, stopBegun := true, plan := placeNewline (s.ccfg n).fill .stop }

/-! ### Preemption and put-aside (R97, R99) -/

/-- From a ring offset on, the spaces the lookahead shows are passed over. -/
def skipSpaces (look : List LUnit) (size textEnd : Nat) : Nat → Nat → Nat
  | 0, p => p
  | k + 1, p =>
    if p = textEnd then p
    else
      match lookAt p look with
      | .byte b => if b = 0x20 then skipSpaces look size textEnd k ((p + 1) % size) else p
      | .lost _ => p
      | .missing => p

/-- The resume offset a preemption stores: the first byte of the next unsent word or of the unfinished word, with
pending spaces dropped (R97, R123; log entry 10). -/
def State.resumeOf (s : State) (n : Circ) (st : Story) : Nat :=
  let c := s.circ n
  skipSpaces c.ftc.look (s.fsize st.feed) st.textEnd 96 c.snd.nextUnsent

/-- The preemption's or put-aside's last steps: PREEMPTED with its resume offset, the pending spaces dropped, a
put-aside's dry mark, back to the head of its rank (R97 steps 2 and 3, R99). The dry mark is set here, so a growth or
close event taken while the put-aside's newline is being sent does not clear it (log entry 37). -/
def State.preemptDone (s : State) (n : Circ) : State :=
  match (s.circ n).sch.tag with
  | none => s
  | some t =>
    match s.story t with
    | none => s
    | some st =>
      let r := s.resumeOf n st
      let aside := (s.circ n).snd.leave == some .putAside
      let dir := (s.circ n).snd.inDirective && r == (s.circ n).snd.nextUnsent
      let s := s.updDelivery t n fun d => { d with state := .preempted, resumeOff := r, inDirective := dir }
      let s := if aside then s.updStory t fun x => { x with dry := x.dry.add n } else s
      ((s.leaveService n).dropPend n).enqueueBack n (.story t)

/-- The action at a reached point begins: the line is ended if the column is above 0 (R97 step 1). -/
def State.beginLeave (s : State) (n : Circ) (k : Leave) : State :=
  let s := s.updSnd n fun d => { d with leave := some k }
  if (s.circ n).snd.column = 0 then s.preemptDone n
  else s.updSnd n fun d => { d with plan := placeNewline (s.ccfg n).fill .leave }

/-! ### Selection (R91) -/

/-- The first item that is not dry, if any, with the queue without it. -/
def State.firstFresh (s : State) (n : Circ) : List Item → Option (Item × List Item)
  | [] => none
  | i :: is =>
    if s.dryOn n i then (s.firstFresh n is).map fun p => (p.1, i :: p.2) else some (i, is)

/-- The item selection takes (R91). -/
def State.pick (s : State) (n : Circ) : List Item → Option (Item × List Item)
  | [] => none
  | i :: is =>
    match s.firstFresh n (i :: is) with
    | some p => some p
    | none => some (i, is)

/-- The queue holds an item that is not dry. -/
def State.hasFresh (s : State) (n : Circ) : Bool :=
  (s.circ n).sch.queue.any fun i => !(s.dryOn n i)

/-- The resume offset of a delivery about to enter service, and whether it lies inside a directive held open
(R121). A notice reads no copy: offset 0 stands for it (log entry 39). -/
def State.resumePoint (s : State) (n : Circ) (i : Item) : Nat × Bool :=
  match i with
  | .notice _ => (0, false)
  | .story t =>
    match s.story t with
    | none => (0, false)
    | some st =>
      match st.delivery n with
      | none => (0, false)
      | some d => (d.resumeOff, d.inDirective)

/-- The item enters service and is handed to the Sender (R91, R109, R144). The next fetch offset of a notice, which
fetches nothing, becomes 0 (log entry 39). -/
def State.enterService (s : State) (n : Circ) (i : Item) (rest : List Item) : State :=
  let r := s.resumePoint n i
  let s := s.updSch n fun c =>
    { c with queue := rest, item := some i, stop := .none, stopMet := false, starve := 0 }
  let s := s.updSnd n fun d =>
    { d with phase := .opening, svc := none, held := [], readPos := r.1, nextUnsent := r.1,
             inDirective := r.2, origin := .none, originDir := false, stopBegun := false,
             leave := none, replay := none }
  let s := s.updFtc n fun x => { x with look := [], nextFetch := unitOf r.1 }
  match i with
  | .notice _ => s
  | .story t => s.updDelivery t n fun d => { d with state := .inService }

/-- Selection: a free, ready circuit with a non-empty queue (R91). -/
def State.select (s : State) (n : Circ) : State :=
  if (s.circ n).sch.item.isNone && s.ready n then
    match s.pick n (s.circ n).sch.queue with
    | none => s
    | some p => s.enterService n p.1 p.2
  else s

/-! ### What a circuit does at once after any event -/

/-- The preemption point is recomputed (R95). -/
def State.setPoint (s : State) (n : Circ) : State := s.updSch n fun c => { c with point := s.pointOf n }

/-- A stop order's place is reached at once in HELD, unless the stop's newline or line has begun (R155; log entry
16). -/
def State.stopHeld (s : State) (n : Circ) : Bool :=
  let c := s.circ n
  c.lu.state == .held && c.sch.stop != .none && c.snd.replay.isNone && !c.snd.stopBegun

/-- A stop order's place is reached at once in RUNNING: while waiting for copy, after a break in which the order was
given to a delivery waiting for copy, or at the opening newline with no character handed (R155). -/
def State.stopAtOnce (s : State) (n : Circ) : Bool :=
  let c := s.circ n
  c.lu.state == .running && c.sch.stop != .none && c.snd.replay.isNone
    && (c.sch.stopMet || s.waitingCopy n || (c.snd.phase == .opening && c.snd.plan.isEmpty && !c.lu.sending))

/-- The circuit may carry out a preemption or put-aside while its delivery waits for copy. -/
def State.mayLeave (s : State) (n : Circ) : Bool :=
  let c := s.circ n
  c.sch.stop == .none && s.waitingCopy n
    && (c.lu.state == .running || (c.lu.state == .held && !(c.lu.capture.any Capture.restartDue)))

/-- The starvation count stands at or above a starve limit above 0 (R99). -/
def State.starved (s : State) (n : Circ) : Bool :=
  (s.ccfg n).starveLim != 0 && decide ((s.ccfg n).starveLim ≤ (s.circ n).sch.starve)

/-- The preemption point a waiting delivery has reached: word boundary or line end, outside a replay (R96, R151). -/
def State.pointMet (s : State) (n : Circ) : Bool :=
  let c := s.circ n
  c.snd.replay.isNone && (c.sch.point == .wordBoundary || c.sch.point == .lineEnd)

/-- The preemption or put-aside of a waiting delivery that is reached at once (R96, R99). Where both are, it is preempted,
without a dry mark (log entry 42). -/
def State.leavesAtOnce (s : State) (n : Circ) : Option Leave :=
  if s.mayLeave n then
    if s.pointMet n then some .preempt
    else if s.starved n && s.hasFresh n then some .putAside
    else none
  else none

/-- A stop, a preemption or a put-aside that is reached at once (R96, R99, R155). -/
def State.actAtOnce (s : State) (n : Circ) : State :=
  if s.stopHeld n then (s.silentStop n).dropPend n
  else if s.stopAtOnce n then s.stopHere n
  else
    match s.leavesAtOnce n with
    | none => s
    | some k => s.beginLeave n k

/-- Something is reached at once on a circuit that is RUNNING. -/
def State.actsAtOnce (s : State) (n : Circ) : Bool := s.stopAtOnce n || (s.leavesAtOnce n).isSome

/-- The idle timer runs while the circuit is idle, from 0 each time it becomes so (R137). -/
def State.setIdle (s : State) (n : Circ) : State :=
  s.updLu n fun l => { l with idle := if s.isIdle n then some (l.idle.getD 0) else none }

/-- Everything a circuit's Scheduler and Sender do at once after an event that concerns them: the preemption
point, a stop or preemption reached at once, selection, the idle timer, the next fetch. -/
def State.settleLine (s : State) (n : Circ) : State :=
  (((((s.setPoint n).actAtOnce n).select n).setPoint n).setIdle n).fetchTry n

/-! ### Boundaries a completed character reaches (R96, R128 step 5, R155) -/

/-- The replay of a line restart ends when its captured next unsent offset is reached (R151). -/
def State.replayCheck (s : State) (n : Circ) : State :=
  if (s.circ n).snd.replayOver (s.servedSize n) then s.updSnd n fun d => { d with replay := none } else s

/-- A stop order may be carried out at this boundary. -/
def State.stopOpen (s : State) (n : Circ) : Bool :=
  let c := s.circ n
  c.sch.stop != .none && c.snd.replay.isNone && c.snd.phase != .stopNewline && c.snd.phase != .stopLine

/-- A preemption may be carried out at this boundary: in the text, with no stop order and no replay. -/
def State.leaveOpen (s : State) (n : Circ) : Bool :=
  let c := s.circ n
  c.sch.item.isSome && c.sch.stop == .none && c.snd.replay.isNone && c.snd.phase == .text

/-- The boundary after the last character of a word (R96, R155). -/
def State.wordTest (s : State) (n : Circ) : State :=
  if s.stopOpen n then s.stopHere n
  else if s.leaveOpen n then
    match (s.circ n).snd.leave with
    | some k => s.beginLeave n k
    | none => if (s.circ n).sch.point = .wordBoundary then s.beginLeave n .preempt else s
  else s

/-- A newline of the story's text, or the newline of the opening or lost-copy line: a line end (R96). The newline of a split
word is handed as a fold, so it is one too (log entry 56). -/
def NlCause.lineEnd : NlCause → Bool
  | .fold => true
  | .hard => true
  | .take => true
  | .svcLast => true
  | .opening => false
  | .svcFold => false
  | .closing => false
  | .leave => false
  | .stop => false
  | .lost => false
  | .hold => false
  | .restart => false

/-- A newline's completion reaches the point (R96). -/
def Point.reachedAt (p : Point) (k : NlCause) : Bool :=
  match p with
  | .none => false
  | .wordBoundary => true
  | .lineEnd => k.lineEnd
  | .takeOrEnd => k == .take

/-- The boundary at the completion of a newline (R96, R155). -/
def State.lineTest (s : State) (n : Circ) (k : NlCause) : State :=
  if s.stopOpen n then s.stopHere n
  else if s.leaveOpen n then
    match (s.circ n).snd.leave with
    | some l => s.beginLeave n l
    | none => if (s.circ n).sch.point.reachedAt k then s.beginLeave n .preempt else s
  else s

/-! ### Newlines and phases (R114, R127, R129, R154) -/

/-- The line origin a completed newline leaves (R114, R123). A stopping item is no longer in its text phase, so a stop's
own newline leaves none (log entry 46); one at a lost unit is in its text phase (log entry 57). -/
def Sender.originAfter (d : Sender) (k : NlCause) : Origin :=
  if k = .svcFold then d.origin
  else if d.phase = .text ∨ d.phase = .lostNewline then .text d.nextUnsent
  else .none

/-- What the completion of a newline records (R114), and whether the line begins inside a directive held open
(R121). -/
def Sender.newlineDone (d : Sender) (k : NlCause) : Sender :=
  { d with column := 0, pend := 0, lineCount := d.lineCount + 1, bare := d.column == 0,
           hard := k == .hard, origin := d.originAfter k
           originDir := if k = .svcFold then d.originDir else d.inDirective }

/-- A held capture record is discarded at this newline (R150, R151): of a text line, the first one handed after the
replay, which the restart newline comes before. -/
def Capture.over (c : Capture) (k : NlCause) (replaying : Bool) : Bool :=
  match c.drop with
  | .keep => false
  | .atNewline => true
  | .afterReplay => !replaying && k != .restart
  | .atServiceEnd => k == .svcLast

def State.dropCapture (s : State) (n : Circ) (k : NlCause) : State :=
  match (s.circ n).lu.capture with
  | none => s
  | some c => if c.over k (s.circ n).snd.replay.isSome
    then s.updLu n fun l => { l with capture := none } else s

def State.setPhase (s : State) (n : Circ) (p : Phase) : State := s.updSnd n fun d => { d with phase := p }

/-- The text phase begins at the next unsent offset, on a SOFT line with no pending spaces (R127). The newline at which it
begins leaves that offset as the line origin (log entry 53). -/
def State.enterText (s : State) (n : Circ) : State :=
  s.updSnd n fun d =>
    { d with phase := .text, svc := none, readPos := d.nextUnsent, pend := 0,
             origin := .text d.nextUnsent, originDir := d.inDirective }

/-- The first lost unit leaves the lookahead (R154 step 5). -/
def dropLost : List LUnit → List LUnit
  | [] => []
  | u :: us => if u.lost then us else u :: dropLost us

/-- A unit whose bytes all lie before the read position, in the read position's own unit. -/
def LUnit.spent (u : LUnit) (readPos : Nat) : Bool := u.off == unitOf readPos && decide (u.lim ≤ readPos % 16)

/-- The lost-copy line has been sent: packing goes on at the unit's limit, and a short unit that the lost bytes
followed is passed (R154 step 5). -/
def State.lostDone (s : State) (n : Circ) : State :=
  let s := s.enterText n
  let p := (s.circ n).snd.readPos
  s.updFtc n fun x => { x with look := (pruneUnits p (dropLost x.look)).filter fun u => !u.spent p }

/-- The notice line has been sent: its reference is released and the circuit is free (R101, R129). -/
def State.noticeSent (s : State) (n : Circ) : State :=
  match (s.circ n).sch.item with
  | some (.notice i) => (s.leaveService n).releaseRef i
  | _ => s

/-- The head line has been sent in full (R127). -/
def State.headDone (s : State) (n : Circ) : State :=
  match (s.circ n).sch.tag with
  | none => s
  | some t => (s.updDelivery t n fun d => { d with headSent := true }).enterText n

/-- The last newline of a service line (R127, R129, R154, R155). -/
def State.svcDone (s : State) (n : Circ) : State :=
  match (s.circ n).snd.phase with
  | .head => s.headDone n
  | .resume => s.enterText n
  | .endLine => (s.setPhase n .blank).updSnd n fun d => { d with svc := none }
  | .notice => s.noticeSent n
  | .stopLine => s.endStop n
  | .lostLine => s.lostDone n
  | .opening | .text | .lostNewline | .closing | .blank | .stopNewline => s

/-- The phase that follows the opening newline (R127, R129). -/
def State.openerPhase (s : State) (n : Circ) : Phase :=
  match (s.circ n).sch.item with
  | none => .opening
  | some (.notice _) => .notice
  | some (.story t) =>
    match s.story t with
    | none => .head
    | some st =>
      match st.delivery n with
      | none => .head
      | some d => if d.headSent then .resume else .head

/-- The opening newline is over: the opening service line follows. -/
def State.openLine (s : State) (n : Circ) : State :=
  if (s.circ n).snd.phase = .opening then s.setPhase n (s.openerPhase n) else s

/-- What follows a completed newline by its cause. -/
def State.nlNext (s : State) (n : Circ) (k : NlCause) : State :=
  match k with
  | .opening => s.openLine n
  | .svcLast => s.svcDone n
  | .closing => (s.setPhase n .endLine).updSnd n fun d => { d with svc := none }
  | .leave => if (s.circ n).sch.stop = .none then s.preemptDone n else s.stopHere n
  | .stop => s.stopLineOrEnd n
  | .lost => (s.setPhase n .lostLine).updSnd n fun d => { d with svc := none }
  | .fold | .hard | .take | .svcFold | .hold | .restart => s

/-- The read position stands at a lost unit, whose lost-copy line comes next. -/
def Circuit.atLost (c : Circuit) : Bool :=
  match lookAt c.snd.readPos c.ftc.look with
  | .lost _ => c.snd.phase == .text && c.snd.held.isEmpty
  | .byte _ => false
  | .missing => false

/-- The word boundary that a lost unit makes: a stop is reached there, a preemption point is not (R154). -/
def State.lostTest (s : State) (n : Circ) : State := if s.stopOpen n then s.stopHere n else s

/-- The last character of a word has completed (R96, R154, R155). -/
def State.wordDone (s : State) (n : Circ) : State :=
  let s := s.replayCheck n
  if (s.circ n).atLost then s.lostTest n else s.wordTest n

/-- What the completion of a character completes (R128 steps 2, 4 and 5). -/
def State.complete (s : State) (n : Circ) (m : Mark) : State :=
  match m with
  | .none => s
  | .wordEnd => s.wordDone n
  | .blankEnd => s.deliveryDone n
  | .newline k =>
    let s := s.updSnd n fun d => d.newlineDone k
    let s := (s.replayCheck n).dropCapture n k
    (s.nlNext n k).lineTest n k

/-- A character counts in its delivery, and a completed newline as a line (R128 steps 1 and 2). -/
def countChar (m : Mark) (d : Delivery) : Delivery :=
  match m with
  | .newline _ => { d with chars := satInc 0xFFFFFFFF d.chars, lines := satInc 65535 d.lines }
  | _ => { d with chars := satInc 0xFFFFFFFF d.chars }

/-- The completed character of the head line or the text puts the circuit in the sent set (R63, R128 step 3). -/
def State.joinSent (s : State) (n : Circ) (c : SentChar) : State :=
  match c.owner with
  | none => s
  | some t =>
    if c.headText then s.updStory t fun st => { st with sent := st.sent.add n } else s

/-- The Sender records a completed character (R128). -/
def State.recordChar (s : State) (n : Circ) (c : SentChar) : State :=
  let s := match c.owner with
    | none => s
    | some t => s.updDelivery t n (countChar c.mark)
  (s.joinSent n c).complete n c.mark

/-! ### The request for the next character (R134, R117) -/

def State.textEnv (s : State) (n : Circ) (st : Story) : TextEnv :=
  { cfg := s.ccfg n, size := s.fsize st.feed, textEnd := st.textEnd, isOpen := st.state == .open_,
    look := (s.circ n).ftc.look }

/-- Copy from one ring offset to another is taken: the starvation count returns to 0 if it holds copy that was not
there when the count last rose, so a replay does not end the waiting (R98, R151). -/
def Sched.takeCopy (c : Sched) (size from_ to_ : Nat) : Sched :=
  if ringDist size from_ c.waitEnd < ringDist size from_ to_ then { c with starve := 0 } else c

/-- The Sender after reading text: its lookahead without the units passed, and the starvation count at 0 if it
took new copy (R98, R144). -/
def State.afterRead (s : State) (n : Circ) (size : Nat) (d : Sender) : State :=
  let p := (s.circ n).snd.readPos
  let s := (s.updSnd n fun _ => d).updFtc n fun x => { x with look := pruneUnits d.readPos x.look }
  s.updSch n fun c => c.takeCopy size p d.readPos

/-- The lost unit's first steps: the next unsent offset at its limit, then a newline if the column is above 0
(R154 steps 2 and 3). -/
def State.beginLost (s : State) (n : Circ) (size : Nat) (u : LUnit) : State :=
  let lim := (u.off + u.lim) % size
  let s := s.updSch n fun c => c.takeCopy size (s.circ n).snd.readPos lim
  let s := s.updSnd n fun d => { d with nextUnsent := lim, svc := none }
  if (s.circ n).snd.column = 0 then s.setPhase n .lostLine
  else s.updSnd n fun d =>
    { d with phase := .lostNewline, plan := placeNewline (s.ccfg n).fill .lost }

/-- The story's end: the end line follows, but for a KILLED or CUT story, whose stop is carried out (R118,
R127). -/
def State.storyEnd (s : State) (n : Circ) (st : Story) : State :=
  if (s.circ n).sch.stop != .none && (st.state == .killed || st.state == .cut) then s.stopHere n
  else s.setPhase n .closing

/-- One turn of the request: reads text, composes a line or passes to the next phase. Answers whether another
turn is needed to have a character ready or nothing. An opening newline is decided when it is asked for, so a newline that a
circuit without an item was still handing serves for it (log entry 54). -/
def State.askTurn (s : State) (n : Circ) : State × Bool :=
  let c := s.circ n
  let cfg := s.ccfg n
  match c.sch.item with
  | none => (s, false)
  | some i =>
    match c.snd.phase with
    | .opening =>
      if c.snd.column = 0 then (s.openLine n, true)
      else (s.updSnd n fun d => { d with plan := placeNewline cfg.fill .opening }, false)
    | .blank => (s.updSnd n fun d => { d with plan := placeBlank }, false)
    | .closing =>
      if c.snd.column = 0 then ((s.setPhase n .endLine).updSnd n fun d => { d with svc := none }, true)
      else (s.updSnd n fun d => { d with plan := placeNewline cfg.fill .closing }, false)
    | .stopNewline =>
      if c.snd.column = 0 then (s.stopLineOrEnd n, true)
      else (s.updSnd n fun d => { d with plan := placeNewline cfg.fill .stop }, false)
    | .lostNewline =>
      if c.snd.column = 0 then (s.setPhase n .lostLine, true)
      else (s.updSnd n fun d => { d with plan := placeNewline cfg.fill .lost }, false)
    | .head | .resume | .endLine | .notice | .stopLine | .lostLine =>
      match c.snd.svc with
      | none => (s.beginSvc n, true)
      | some ts => (s.updSnd n fun d => svcStep cfg d ts, false)
    | .text =>
      match i with
      | .notice _ => (s, false)
      | .story t =>
        match s.story t with
        | none => (s, false)
        | some st =>
          let r := textStep (s.textEnv n st) 128 c.snd
          let s := s.afterRead n (s.fsize st.feed) r.1
          match r.2 with
          | .ready => (s, false)
          | .nothing => (s, s.actsAtOnce n)
          | .takeRead =>
            if s.leaveOpen n && (s.circ n).sch.point == .takeOrEnd then (s.beginLeave n .preempt, true)
            else (s, true)
          | .replayed => ((s.updSnd n fun d => { d with replay := none }).wordTest n, true)
          | .atEnd => (s.storyEnd n st, true)
          | .lost u => (s.beginLost n (s.fsize st.feed) u, true)

/-- The request for the next character, turn after turn until a character is placed or nothing is ready. Each
turn reads a byte, ends a phase or ends an item. -/
def State.ask : Nat → State → Circ → State
  | 0, s, _ => s
  | k + 1, s, n =>
    if (s.circ n).snd.plan.isEmpty then
      let r := s.askTurn n
      if r.2 then State.ask k (r.1.settleLine n) n else r.1
    else s

/-- The newline a pending hold asks for when nothing is ready in the middle of a line (R140). None is asked for while the
item awaits a fetch, which no row of R140 names (log entry 45). -/
def State.holdNewline (s : State) (n : Circ) : State :=
  let c := s.circ n
  if c.lu.hold && c.snd.plan.isEmpty && c.snd.column != 0 && (c.sch.item.isNone || s.waitingCopy n) then
    s.updSnd n fun d => { d with plan := placeNewline (s.ccfg n).fill .hold }
  else s

/-- The character belongs to the head line or the text of its delivery. -/
def Sender.inHeadText (d : Sender) : Bool :=
  (d.phase == .head && d.svc.isSome) || d.phase == .text || d.phase == .closing

/-- Circuit n's Line Unit begins its next slot (R134). -/
def State.beginSlot (s : State) (n : Circ) : State :=
  let s := (s.ask 256 n).holdNewline n
  let c := s.circ n
  match c.snd.handFirst (s.ccfg n) with
  | some (d, code, m, sub) =>
    let sl : Slot := { kind := .char { code := code, mark := m, owner := c.sch.tag,
                                       headText := c.snd.inHeadText }, elapsed := 0 }
    let s := (s.updSnd n fun _ => d).updLu n fun l => { l with slot := some sl }
    let s := match c.sch.tag with
      | none => s
      | some t => if sub then s.updDelivery t n fun x => { x with subs := satInc 65535 x.subs } else s
    s.fetchTry n
  | none =>
    let s := s.fetchTry n
    if (s.ccfg n).idleFill then
      (s.updSnd n fun d => { d with plane := some (d.plane.getD .ltr) }).updLu n fun l =>
        { l with slot := some { kind := .fill (fillCode c.snd.plane), elapsed := 0 } }
    else s.updLu n fun l => { l with slot := some { kind := .mark, elapsed := 0 } }

end Sys2Proof.Machine
end

