-- ==== Sys2Proof/Machine/LineUnit.lean ====
section
/-! DEFINITION. Circuit parts, motor start and lead, HELD, breaks, faults and the completion of a slot
(chapters 8 and 9, R25). -/

namespace Sys2Proof.Machine

/-! ### Emptying a queue (R102, R106) -/

/-- An item leaves the queue for good: a delivery is abandoned, a notice reference released. -/
def State.dropItem (n : Circ) (s : State) (i : Item) : State :=
  match i with
  | .story t => (s.dequeue n i).abandon t n
  | .notice x => (s.dequeue n i).releaseRef x

/-- The queue is emptied front to back (R102, R106). -/
def State.emptyQueue (s : State) (n : Circ) : State := (s.circ n).sch.queue.foldl (State.dropItem n) s

/-! ### Circuit parts (R25, R143, R147) -/

/-- The motor drops, the slot in progress is cut short and the circuit enters STOPPED with its plane UNKNOWN
(R138, R142). The rest of a newline that the idle circuit was handing is dropped, and a capture record that was to go
with it stays (log entry 38). A break or a fault
detected in the slot cut short stays detected, and is acted on at the first slot completion after the next start (log
entry 40). -/
def State.stopCore (s : State) (n : Circ) : State :=
  (s.updLu n fun l => { l with state := .stopped, motor := false, slot := none, idle := none }).updSnd n
    fun d => { d with plane := none, plan := [] }

/-- The Line Unit of a circuit turned off (R25, R143, R147, R157). -/
def LineUnit.turnedOff (l : LineUnit) : LineUnit :=
  { LineUnit.start with sense := l.sense }

/-- The in-service item of a circuit turned off stops at once (R106). -/
def State.dropService (s : State) (n : Circ) : State :=
  match (s.circ n).sch.item with
  | none => s
  | some (.story t) => ((s.abandonOnly t n).leaveService n).retireTest t
  | some (.notice i) => (s.leaveService n).releaseRef i

/-- Enable on to off (R25, R106). -/
def State.circOff (s : State) (n : Circ) : State :=
  let s := s.updLu n LineUnit.turnedOff
  let s := (s.emptyQueue n).dropService n
  s.updSch n fun c => { c with point := .none, starve := 0 }

/-- Enable off to on (R25, R109, R147). The next fetch offset is 0 (log entry 39). -/
def State.circOn (s : State) (n : Circ) : State :=
  ((s.updLu n fun l => { LineUnit.start with state := .stopped, sense := l.sense }).updSnd n
    fun _ => Sender.start).updFtc n fun x => { x with look := [], nextFetch := 0 }

/-- Enable on throughout: the column at most the new width, a word or a newline not yet begun placed again, the runs
restarted by a change of invert, and the idle timer judged by the new timeout (R109, R124, R138, R147). -/
def State.circChange (s : State) (n : Circ) (old new : CircCfg) : State :=
  let s := s.updSnd n fun d =>
    let d := (d.unplace (s.servedSize n)).refill new.fill
    { d with column := if new.width = 0 then d.column else min d.column new.width }
  let s := if old.invert = new.invert then s
    else s.updLu n fun l => { l with spaceRun := 0, markRun := 0 }
  match (s.circ n).lu.idle with
  | none => s
  | some e => if new.idleTicks ≠ 0 ∧ new.idleTicks ≤ e then s.stopCore n else s

/-- Circuit n's applied entry is replaced, with the effects of R25. -/
def State.setCircCfg (s : State) (n : Circ) (new : CircCfg) : State :=
  let old := s.ccfg n
  let s := { s with applied := { s.applied with circs := vset s.applied.circs n new } }
  if old.enable then
    if new.enable then s.circChange n old new else s.circOff n
  else if new.enable then s.circOn n else s

/-- A circuit part whose condition holds: dropped or taken (R22). If it was the last part of the apply, APPLY_DONE is posted
here, before the report of a fault, a break or a restore that its limits cause (log entry 17). -/
def State.examineCirc (s : State) (n : Circ) : State :=
  let new := stagedCirc s.mirror.staging n
  let s := if new = s.ccfg n then s else s.setCircCfg n new
  ((s.setMarkCirc n false).reexamine).applyCheck

/-- The circuit is at its boundary: a pending circuit part is examined (R143, R22). -/
def State.circBoundary (s : State) (n : Circ) : State :=
  if vget s.mirror.pendCirc n then s.examineCirc n else s

/-! ### HELD, STOPPED, LEAD (R135, R136, R138, R140) -/

/-- The circuit enters HELD: no slot, hold pending cleared (R136, R140); HELD is a boundary (R143), and a stop
order's place is reached there (R155). Where both are due the part is examined first (log entry 48). A circuit part taken
there is not yet compared with the runs. -/
def State.heldCore (s : State) (n : Circ) : State :=
  let s := s.updLu n fun l => { l with state := .held, hold := false, slot := none, idle := none }
  (s.circBoundary n).settleLine n

/-- The circuit enters RUNNING: selection runs, then the first slot is decided (R134, R136). -/
def State.enterRunning (s : State) (n : Circ) : State :=
  let s := s.updLu n fun l => { l with state := .running }
  (s.settleLine n).beginSlot n

/-- The report of a break (R148, R166). -/
def State.breakReport (s : State) (n : Circ) (from_ : CState) : Report :=
  { kind := .circuitBreak, circ := some n, tag := (s.circ n).sch.tag,
    valA := BitVec.ofNat 32 from_.code, valB := BitVec.ofNat 16 (s.circ n).snd.column }

/-- The capture record (R148). -/
def Circuit.captured (c : Circuit) (from_ : CState) : Capture :=
  { from_ := from_, item := c.sch.item, origin := c.snd.origin, nextUnsent := c.snd.nextUnsent,
    column := c.snd.column, lineCount := c.snd.lineCount, holdTaken := false, restartDue := false,
    drop := .keep }

/-- The circuit enters BROKEN: steady mark, motor on, break detected cleared, a capture record taken, CIRCUIT_BREAK
posted (R148). What the recorded character finished has its effect on the preemption point and the next fetch (R95,
R149). -/
def State.brokenCore (s : State) (n : Circ) : State :=
  let c := s.circ n
  let s := s.updLu n fun l =>
    { l with state := .broken, slot := none, idle := none, brkDet := false,
             capture := some (c.captured l.state) }
  ((s.post (s.breakReport n c.lu.state)).setPoint n).fetchTry n

/-- The lead's slots run from the beginning, or `ends` follows at once with a lead count of 0 (R135, R150). -/
def State.leadSlots (s : State) (n : Circ) (ends : State → Circ → State) : State :=
  let k := (s.ccfg n).lead
  if k = 0 then ends s n
  else s.updLu n fun l => { l with leadLeft := k, slot := some { kind := .leadChar, elapsed := 0 } }

/-- The lead that runs again after a break has cleared ends in RUNNING: no hold is pending there (R136, R150). -/
def State.leadOver (s : State) (n : Circ) : State :=
  (s.updLu n fun l => { l with leadLeft := 0, slot := none }).enterRunning n

/-! ### Restart and continuation (R150, R151) -/

/-- The phase in which a service line is sent again. -/
def SvcKind.phase : SvcKind → Phase
  | .head => .head
  | .resume => .resume
  | .endLine => .endLine
  | .notice _ => .notice
  | .stop _ => .stopLine
  | .lost => .lostLine

/-- A line restart (R151). With no item the line origin names nothing to send again. The restart newline takes the place of
whatever was placed and not handed, the rest of an opening newline too (log entry 58). -/
def State.restartLine (s : State) (n : Circ) (cap : Capture) : State :=
  let d := (s.circ n).snd
  let due := (s.circ n).sch.item.isSome || d.column != 0
  let nl := if due then placeNewline (s.ccfg n).fill .restart else []
  let origin := if (s.circ n).sch.item.isSome then cap.origin else .none
  match origin with
  | .text o =>
    let s := s.updSnd n fun d => Sender.syncUnsent
      { d with plan := nl, phase := .text, svc := none, readPos := o, nextUnsent := o, held := [],
               inDirective := d.originDir, pend := 0, stopBegun := false,
               replay := some (o, cap.nextUnsent) }
    let s := s.updFtc n fun x => { Fetcher.discard x .dropStale with look := [], nextFetch := unitOf o }
    s.updLu n fun l => { l with capture := some { cap with drop := .afterReplay, restartDue := false } }
  | .svc k =>
    let s := s.updSnd n fun d => { d with plan := nl, phase := k.phase, svc := none }
    s.updLu n fun l => { l with capture := some { cap with drop := .atServiceEnd, restartDue := false } }
  | .none =>
    let s := s.updSnd n fun d => { d with plan := nl }
    s.updLu n fun l =>
      { l with capture := if due then some { cap with drop := .atNewline, restartDue := false } else none }

/-- The restart or the continuation, by the line restart setting applied now (R150). A continuation keeps a replay that was
in progress, with its target (log entry 59). -/
def State.takeUp (s : State) (n : Circ) : State :=
  match (s.circ n).lu.capture with
  | none => s
  | some cap =>
    if (s.ccfg n).restart then s.restartLine n cap
    else s.updLu n fun l =>
      { l with capture := some { cap with drop := .atNewline, restartDue := false } }

/-- CIRCUIT_CLEAR (R150, R166). -/
def State.clearReport (s : State) (n : Circ) (into : CState) : Report :=
  { kind := .circuitClear, circ := some n, tag := (s.circ n).sch.tag,
    valA := BitVec.ofNat 32 into.code, valB := if (s.ccfg n).restart then 1 else 0 }

/-- The state a clear leads to (R150). -/
def LineUnit.clearsInto (l : LineUnit) (cap : Capture) : CState :=
  if cap.holdTaken || l.hold || cap.from_ == .held then .held
  else if cap.from_ == .lead then .lead
  else .running

/-- The break clears (R150). The input reads mark, so a circuit part taken at an entry into HELD meets no limit of the
space run. -/
def State.clearBreak (s : State) (n : Circ) : State :=
  match (s.circ n).lu.capture with
  | none => s
  | some cap =>
    let into := (s.circ n).lu.clearsInto cap
    let s := s.updSnd n fun d => { d with plane := none }
    let s := s.post (s.clearReport n into)
    match into with
    | .held => State.heldCore
        (s.updLu n fun l => { l with capture := some { cap with restartDue := true } }) n
    | .lead => State.leadSlots (s.updLu n fun l => { l with state := .lead, capture := none }) n State.leadOver
    | _ => (s.takeUp n).enterRunning n

/-- The mark run has reached the clear limit (R147). -/
def State.markReached (s : State) (n : Circ) : Bool :=
  (s.circ n).lu.readsMark (s.ccfg n).invert && decide ((s.ccfg n).clrLimit ≤ (s.circ n).lu.markRun)

/-- Entry into BROKEN, which clears in the same event if the mark run has reached the clear limit (R150). -/
def State.enterBroken (s : State) (n : Circ) : State :=
  let s := s.brokenCore n
  if s.markReached n then s.clearBreak n else s

/-! ### Loop fault and restore (R152, R153) -/

/-- The resume offset of a delivery a fault returns (R152), and whether it lies inside a directive held open
(R121). -/
def Circuit.faultResume (c : Circuit) (st : Story) (d : Delivery) : Nat × Bool :=
  match c.snd.origin with
  | .text o => (o, c.snd.originDir)
  | _ =>
    match c.snd.phase with
    | .opening | .head | .resume => (d.resumeOff, d.inDirective)
    | .endLine | .blank => (st.textEnd, false)
    | .text | .lostNewline | .lostLine | .closing | .notice | .stopNewline | .stopLine =>
      (c.snd.nextUnsent, c.snd.inDirective)

/-- The delivery as a fault returns it: PREEMPTED, the head-sent flag cleared if its head line was not sent in
full (R152). -/
def Circuit.faultDelivery (c : Circuit) (st : Story) (d : Delivery) : Delivery :=
  { d with state := .preempted, resumeOff := (c.faultResume st d).1,
           inDirective := (c.faultResume st d).2
           headSent := d.headSent && c.snd.phase != .head }

/-- The in-service item at a fault (R152, R104). -/
def State.faultItem (s : State) (n : Circ) : State :=
  let c := s.circ n
  match c.sch.item with
  | none => s
  | some (.notice i) => (s.leaveService n).enqueueBack n (.notice i)
  | some (.story t) =>
    if c.sch.stop = .none then
      match s.story t with
      | none => s.leaveService n
      | some st =>
        let s := s.updDelivery t n fun d => c.faultDelivery st d
        (s.leaveService n).enqueueBack n (.story t)
    else s.silentStop n

/-- A hold taken during the break, or a break from HELD, is kept as hold pending (R152; log entry 18). -/
def LineUnit.faultHold (l : LineUnit) : Bool :=
  l.hold || ((l.state == .broken || l.state == .held)
    && l.capture.any fun c => c.holdTaken || c.from_ == .held)

/-- CIRCUIT_FAULT (R152, R166). -/
def State.faultReport (s : State) (n : Circ) (tag : Option Tag) (from_ : CState) : Report :=
  { kind := .circuitFault, circ := some n, tag := tag, valA := BitVec.ofNat 32 from_.code,
    valB := BitVec.ofNat 16 (s.circ n).sch.queue.length }

/-- The circuit enters FAULT (R152); FAULT is a boundary (R143). A circuit part taken there is not yet compared with
the mark run. The lead remaining becomes 0, and BROKEN keeps it (log entry 44). -/
def State.faultCore (s : State) (n : Circ) : State :=
  let c := s.circ n
  let s := s.updLu n fun l =>
    { l with state := .fault, motor := false, slot := none, idle := none, leadLeft := 0,
             hold := l.faultHold, capture := none, fltDet := false, brkDet := false }
  let s := (s.faultItem n).updSnd n fun d => { d with plan := [] }
  let s := s.setPoint n
  let s := s.post (s.faultReport n c.sch.tag c.lu.state)
  (s.circBoundary n).settleLine n

/-! ### A circuit part taken: the runs against the new limits (R147) -/

/-- The input of circuit n reads space and its run stands at a limit. -/
def State.spaceReached (s : State) (n : Circ) (limit : Nat) : Bool :=
  let l := (s.circ n).lu
  !(l.readsMark (s.ccfg n).invert) && decide (0 < l.spaceRun) && decide (limit ≤ l.spaceRun)

/-- The space run is compared with the limits of a part just taken: a fault, then a break, is acted on in that event,
at the boundaries where no slot is in progress (R147, R148, R152). -/
def State.spaceLimits (s : State) (n : Circ) : State :=
  match (s.circ n).lu.state with
  | .stopped => if s.spaceReached n (s.ccfg n).fltLimit then s.faultCore n else s
  | .held | .running =>
    if s.spaceReached n (s.ccfg n).fltLimit then s.faultCore n
    else if s.spaceReached n (s.ccfg n).brkLimit then s.enterBroken n
    else s
  | .off | .lead | .broken | .fault => s

/-- The state t after an event of s on circuit n, with the runs compared if the event took a circuit part (R147), after
the apply's completion (log entry 17). -/
def State.afterPart (s : State) (n : Circ) (t : State) : State :=
  if t.ccfg n = s.ccfg n then t else t.spaceLimits n

/-- The circuit enters HELD (R136, R140, R143). -/
def State.enterHeld (s : State) (n : Circ) : State := s.afterPart n (s.heldCore n)

/-- The lead ends: HELD if a hold is pending, else RUNNING (R136). A fault that a cut slot left detected, else a break
detected at the entry into LEAD, is acted on in HELD at once (R148, R152; log entry 40); a pending circuit part was taken
at the entry into HELD. -/
def State.leadEnd (s : State) (n : Circ) : State :=
  let s := s.updLu n fun l => { l with leadLeft := 0, slot := none }
  if (s.circ n).lu.hold then
    let s := s.enterHeld n
    if (s.circ n).lu.fltDet then s.faultCore n
    else if (s.circ n).lu.brkDet then s.enterBroken n
    else s
  else s.enterRunning n

/-- A STOPPED circuit starts its motor and enters LEAD (R135, R109); a space run already at the break limit is a
break detected there (R148). -/
def State.leadStart (s : State) (n : Circ) : State :=
  let cfg := s.ccfg n
  let s := s.updLu n fun l =>
    { l with state := .lead, motor := true, brkDet := l.brkDet || decide (cfg.brkLimit ≤ l.spaceRun) }
  (s.updSnd n fun d => { d with plane := none }).leadSlots n State.leadEnd

/-- What a circuit does at once after any event: a STOPPED circuit with a non-empty queue starts (R93, R135), any
other settles. -/
def State.sched (s : State) (n : Circ) : State :=
  if (s.circ n).lu.state == .stopped && !(s.circ n).sch.queue.isEmpty then s.leadStart n
  else s.settleLine n

/-- All circuits, in ascending order. -/
def State.schedAll (s : State) : State := allCircs.foldl State.sched s

/-- Entry into STOPPED from an idle circuit (R138, R142): a boundary (R143). -/
def State.enterStopped (s : State) (n : Circ) : State :=
  (s.afterPart n ((s.stopCore n).circBoundary n)).sched n

/-- The circuit is restored: STOPPED, plane UNKNOWN, CIRCUIT_RESTORED, and LEAD if items are queued (R153). -/
def State.restore (s : State) (n : Circ) : State :=
  let s := s.updLu n fun l => { l with state := .stopped, motor := false, fltDet := false }
  let s := s.updSnd n fun d => { d with plane := none }
  let s := s.post { kind := .circuitRestored, circ := some n,
                    valA := BitVec.ofNat 32 (s.circ n).sch.queue.length }
  (s.afterPart n (s.circBoundary n)).sched n

/-- The circuit enters FAULT (R152); a part taken there restores it if the mark run stands at the new clear limit
(R147, R153). -/
def State.enterFault (s : State) (n : Circ) : State :=
  let t := s.faultCore n
  if t.ccfg n ≠ s.ccfg n ∧ t.markReached n = true then t.restore n else t

/-- A circuit part taken in a state that sends no characters: the runs are compared with its limits (R147), after the
apply's completion (log entry 17). -/
def State.partTaken (s : State) (n : Circ) (t : State) : State :=
  if t.ccfg n = s.ccfg n then t
  else if (t.circ n).lu.state == .fault then (if t.markReached n then t.restore n else t)
  else t.spaceLimits n

/-! ### The completion of a slot (R134) -/

/-- After a lead slot: the lead goes on or ends (R135). -/
def State.leadSlotDone (s : State) (n : Circ) : State :=
  let s := s.updLu n fun l => { l with leadLeft := l.leadLeft - 1, slot := none }
  if (s.circ n).lu.fltDet then s.enterFault n
  else if (s.circ n).lu.brkDet then s.enterBroken n
  else if (s.circ n).lu.leadLeft = 0 then s.leadEnd n
  else s.updLu n fun l => { l with slot := some { kind := .leadChar, elapsed := 0 } }

/-- The Sender records the slot's character, if it carried one (R128). -/
def State.recordSlot (s : State) (n : Circ) (k : SlotKind) : State :=
  match k with
  | .char c => s.recordChar n c
  | .leadChar => s
  | .fill _ => s
  | .mark => s

/-- A character time has passed while the delivery waits for copy (R98, R134). -/
def State.starveTell (s : State) (n : Circ) : State :=
  if s.waitingCopy n then
    s.updSch n fun c => { c with starve := satInc 255 c.starve, waitEnd := (s.circ n).snd.readPos }
  else s

/-- The column is 0 between two characters: not inside a newline (R114). -/
def State.atLineStart (s : State) (n : Circ) : Bool :=
  (s.circ n).snd.column == 0 && !(s.circ n).snd.inNewline

/-- The hold test (R140), then the boundary report (R143), then the next slot (R134), unless a part taken at the
boundary turned the circuit off, stopped its motor or found a break or a fault. -/
def State.nextSlotOrHold (s : State) (n : Circ) : State :=
  if (s.circ n).lu.hold && s.atLineStart n then s.enterHeld n
  else
    let s := if s.atLineStart n then s.afterPart n ((s.circBoundary n).settleLine n) else s
    if (s.circ n).lu.state = .running then s.beginSlot n else s

/-- After a slot of RUNNING: the character is recorded and the starvation count told; then a detected fault or break,
or selection, the hold test and the next slot (R134, R148, R152). -/
def State.runSlotDone (s : State) (n : Circ) (k : SlotKind) : State :=
  let s := ((s.updLu n fun l => { l with slot := none }).recordSlot n k).starveTell n
  if (s.circ n).lu.fltDet then s.enterFault n
  else if (s.circ n).lu.brkDet then s.enterBroken n
  else (s.settleLine n).nextSlotOrHold n

/-- The completion of circuit n's slot in progress (R134). -/
def State.slotDone (s : State) (n : Circ) : State :=
  match (s.circ n).lu.slot with
  | none => s
  | some sl =>
    match (s.circ n).lu.state with
    | .lead => s.leadSlotDone n
    | .running => s.runSlotDone n sl.kind
    | .off | .stopped | .held | .broken | .fault => s

end Sys2Proof.Machine
end

