-- ==== Sys2Proof/Machine/Kill.lean ====
section
/-! DEFINITION. Kills, notices, reclass, spiking and overrun (chapters 4 to 6). -/

namespace Sys2Proof.Machine

/-- The six sources of a kill (R64). -/
inductive KillSource
  | directive
  | request
  | supersede
  | ring
  | victim
  | overrun
deriving DecidableEq, Repr

/-- The notice kind a source gives (R64). -/
def KillSource.kind : KillSource → NoticeKind
  | .directive => .kill
  | .request => .kill
  | .supersede => .superseded
  | .ring => .spiked
  | .victim => .spiked
  | .overrun => .lost

/-- The code of KILL_DONE's source (R173). -/
def KillSource.code : KillSource → Nat
  | .directive => 0
  | .request => 1
  | .supersede => 2
  | .ring => 0
  | .victim => 1
  | .overrun => 0

/-! ### Notices (R67, R69, R100) -/

/-- Queues a notice item on each target circuit, in ascending order, each circuit settling at once (R100). -/
def State.queueNotice (i : Slot32) (s : State) (n : Circ) : State :=
  (s.enqueueNew n (.notice i)).sched n

/-- One kill's notices: one pool entry shared by the target circuits, or NOTICE_DROPPED. Answers the number of
circuits noticed (R100). -/
def State.makeNotices (s : State) (k : NoticeKind) (x : NoticeSource) (targets : List Circ) : State × Nat :=
  if targets.isEmpty then (s, 0)
  else
    match s.freeNotice with
    | none => (s.post (noticeDropped k x targets.length), 0)
    | some i =>
      (targets.foldl (State.queueNotice i) (s.setNotice i (some (s.noticeFor k x targets.length))),
       targets.length)

/-- The circuit is not OFF. -/
def State.circUp (s : State) (n : Circ) : Bool := (s.circ n).lu.state != .off

/-! ### Settling the deliveries of a kill (R67) -/

/-- A kill notices circuit n: a PREEMPTED, DONE or ABANDONED delivery there, in the sent set, the circuit not OFF (R67). An
ABANDONED one in the sent set was cleared or turned off midway: R63 and R106 notice it, R67's table does not (log entry
49). -/
def State.noticed (s : State) (st : Story) (n : Circ) : Bool :=
  match st.delivery n with
  | none => false
  | some d => (d.state == .preempted || d.state == .done || d.state == .abandoned) && CircSet.has st.sent n && s.circUp n

/-- A kill stop turns a CLEAR stop into a kill stop (R103). -/
def giveKill (k : NoticeKind) (c : Sched) : Sched := { c with stop := .kill k }

/-- One delivery of a killed story (R67); an in-service one is given its stop order, and a fetch of the story in
flight is marked to be discarded (R145). -/
def State.settleDelivery (t : Tag) (k : NoticeKind) (s : State) (n : Circ) : State :=
  match s.story t with
  | none => s
  | some st =>
    match st.delivery n with
    | none => s
    | some d =>
      match d.state with
      | .waiting => (s.dequeue n (.story t)).abandonOnly t n
      | .preempted => (s.dequeue n (.story t)).abandonOnly t n
      | .inService => (s.updSch n (giveKill k)).updFtc n fun x => x.discard .dropBack
      | .done => s
      | .abandoned => s

/-- The stop order of a kill found the delivery waiting for copy: its place is reached at once, and during a break at
once after the clear (R103, R155). -/
def State.stopWaited (t : Tag) (s : State) (n : Circ) : State :=
  if s.serving t n && s.stopOpen n then
    if (s.circ n).lu.state == .running then s.stopHere n
    else if (s.circ n).lu.state == .broken then s.updSch n fun c => { c with stopMet := true }
    else s
  else s

/-- The intake is told that the story it may have open is killed (R50). -/
def Parse.killed (p : Parse) (t : Tag) : Parse :=
  match p with
  | .text u => if u = t then .discard (some t) else p
  | .killnum (.text u) a b => if u = t then .killnum (.discard (some t)) a b else p
  | .between => p
  | .header _ _ _ => p
  | .discard _ => p
  | .killnum .between _ _ => p
  | .killnum (.discard _) _ _ => p

/-- The report of a kill of a live story (R66, R165). -/
def killReport (src : KillSource) (t : Tag) (st : Story) (noticed : Nat) : Report :=
  let r : Report := { kind := .killDone, feed := some st.feed, tag := some t, cls := some st.cls,
                      number := st.number, valB := BitVec.ofNat 16 noticed }
  match src with
  | .directive => { r with valA := wordOf (byteN src.code) 0 0 0 }
  | .request => { r with valA := wordOf (byteN src.code) 0 0 0 }
  | .supersede => { r with valA := wordOf (byteN src.code) 0 0 0 }
  | .ring => { r with kind := .spiked, valA := BitVec.ofNat 32 src.code }
  | .victim => { r with kind := .spiked, valA := BitVec.ofNat 32 src.code }
  | .overrun => { r with kind := .overrunCut, valA := BitVec.ofNat 32 st.state.code }

/-- The record of an OPEN or CLOSED story as a kill leaves it (R66, R68). -/
def State.killedRecord (s : State) (src : KillSource) (st : Story) : Story :=
  if src = .overrun then { st with state := .cut, dry := 0 }
  else if st.state = .open_ then
    { st with state := .killed, kwo := true, textEnd := (s.ctx st.feed).cursor, dry := 0 }
  else { st with state := .killed, dry := 0 }

/-- A cut story leaves its feed story list and the account is recomputed; the warning test waits for the last cut
(R68, R78, R83). -/
def State.cutUnlink (s : State) (t : Tag) (st : Story) : State := (s.unlink st.feed t).setAccount st.feed

/-- The record of a killed story, and what the feed list or the intake is told of it (R50, R66, R68). -/
def State.killMark (s : State) (src : KillSource) (t : Tag) (st : Story) : State :=
  let p := s.setStory t (some (s.killedRecord src st))
  if src = .overrun then p.cutUnlink t st
  else if st.state = .open_ then p.updCtx st.feed fun c => { c with parse := c.parse.killed t }
  else p

/-- The deliveries of a killed story are settled (R67), in ascending circuit number, which no rule states (log entry
17). -/
def State.killDeliveries (s : State) (src : KillSource) (t : Tag) : State :=
  allCircs.foldl (State.settleDelivery t src.kind) s

/-- The circuits whose delivery of the story is waiting for copy. -/
def State.waitersOf (s : State) (t : Tag) : List Circ := allCircs.filter fun n => s.serving t n && s.waitingCopy n

/-- The kill of an OPEN or CLOSED story (R66 to R68): record, intake, deliveries, notices, report, the stops that
are reached at once, the circuits' queues, and the retirement test. So NOTICE_DROPPED comes behind the DELIVERY_ABANDONED
of the queued deliveries (log entry 17). -/
def State.killFresh (s : State) (src : KillSource) (t : Tag) (st : Story) : State :=
  let waited := s.waitersOf t
  let targets := allCircs.filter (s.noticed st)
  let r := ((s.killMark src t st).killDeliveries src t).makeNotices src.kind (sourceOf t st) targets
  let s := r.1.post (killReport src t st r.2)
  (waited.foldl (State.stopWaited t) s).schedAll.retireTest t

/-- A cut that finds a KILLED story (R68). -/
def State.cutKilled (s : State) (t : Tag) (st : Story) : State :=
  let s := s.setStory t (some { st with state := .cut })
  let s := s.cutUnlink t st
  let s := allCircs.foldl (fun s n => if s.serving t n then s.updFtc n fun x => x.discard .dropBack else s) s
  (s.post (killReport .overrun t st 0)).retireTest t

/-- The kill of a live story by a source (R66, R68, R70). -/
def State.killLive (s : State) (src : KillSource) (t : Tag) : State :=
  match s.story t with
  | none => s
  | some st =>
    match st.state with
    | .open_ => s.killFresh src t st
    | .closed => s.killFresh src t st
    | .killed =>
      match src with
      | .overrun => s.cutKilled t st
      | .directive | .request | .supersede => s.post (killReport src t st 0)
      | .ring | .victim => s
    | .cut =>
      match src with
      | .directive | .request | .supersede => s.post (killReport src t st 0)
      | .ring | .victim | .overrun => s

/-- The kill of a history entry (R69). -/
def State.killHistory (s : State) (src : KillSource) (i : Nat) (h : HistEntry) : State :=
  let targets := allCircs.filter fun n => CircSet.has h.circs n && s.circUp n
  let x : NoticeSource := { feed := h.feed, tag := none, number := some h.number, slug := h.slug }
  let s := { s with history := s.history.eraseIdx i }
  let r := s.makeNotices src.kind x targets
  r.1.post { kind := .killDone, feed := some h.feed, cls := some h.cls, number := some h.number,
             valA := wordOf (byteN src.code) 1 0 0, valB := BitVec.ofNat 16 r.2 }

/-- A kill by feed and number: the index, then the kill history; answers whether there was a match (R65). -/
def State.killNumber (s : State) (src : KillSource) (f : Feed) (n : BitVec 16) : State × Bool :=
  match s.indexFind f n with
  | some t => (s.killLive src t, true)
  | none =>
    match historyPlace f n s.history 0 with
    | none => (s, false)
    | some i =>
      match s.history[i]? with
      | none => (s, false)
      | some h => (s.killHistory src i h, true)

/-! ### Reclass (R71, R107) -/

/-- One delivery of a reclassed story: a queued one is placed anew, and the circuit's point is recomputed. -/
def State.reclassOn (t : Tag) (s : State) (n : Circ) : State :=
  match s.story t with
  | none => s
  | some st =>
    match st.delivery n with
    | none => s
    | some d =>
      match d.state with
      | .waiting => ((s.dequeue n (.story t)).enqueueNew n (.story t)).sched n
      | .preempted => ((s.dequeue n (.story t)).enqueueNew n (.story t)).sched n
      | .inService => s.sched n
      | .done => s
      | .abandoned => s

/-- RECLASS of a live story (R71). -/
def State.reclass (s : State) (t : Tag) (c : StoryClass) : State :=
  match s.story t with
  | none => s
  | some st =>
    if st.cls = c then s
    else
      let s := s.setStory t (some { st with cls := c })
      match st.state with
      | .open_ => allCircs.foldl (State.reclassOn t) s
      | .closed => allCircs.foldl (State.reclassOn t) s
      | .killed => s
      | .cut => s

/-! ### Spiking (R81, R82) -/

/-- FEED_BLOCKED for a better-class head story, once for each (R82). -/
def State.feedBlocked (s : State) (f : Feed) (t : Tag) (st : Story) : State :=
  if (s.acct f).blocked = some t then s
  else
    let s := s.setAcct f { s.acct f with blocked := some t }
    s.post { s.levelReport .feedBlocked f with tag := some t, cls := some st.cls, number := st.number }

/-- The occupancy is above the spike level, with spiking on (R81). -/
def State.overSpike (s : State) (f : Feed) : Bool :=
  match s.spikeLevel f with
  | none => false
  | some l => decide (l < (s.acct f).occ)

/-- The spike test (R81); the fuel bounds the stories it may retire. -/
def State.spikeTest : Nat → State → Feed → State
  | 0, s, _ => s
  | k + 1, s, f =>
    if s.overSpike f then
      match s.flist f with
      | [] => s
      | t :: _ =>
        match s.story t with
        | none => s
        | some st =>
          if st.state = .open_ ∨ st.state = .closed then
            if 3 ≤ st.cls.1 then
              let s := s.killLive .ring t
              if (s.story t).isNone then State.spikeTest k s f else s
            else s.feedBlocked f t st
          else s
    else s

end Sys2Proof.Machine
end

