-- ==== Sys2Proof/Machine/Intake.lean ====
section
/-! DEFINITION. The Copy Intake, admission and the ring monitor's part in a taken write (chapters 3 to 5). -/

namespace Sys2Proof.Machine

/-! ### The header grammar (R42, R43) -/

/-- The fields of a header. -/
structure Header where
  cls : StoryClass
  number : Option (BitVec 16)
  replaced : Option (BitVec 16)
  slug : List Byte
  fault : Bool
deriving DecidableEq, Repr

/-- The leading run of digits, and the rest. -/
def digitRun : List Byte → List Byte × List Byte
  | [] => ([], [])
  | b :: bs => if isDigit b then (b :: (digitRun bs).1, (digitRun bs).2) else ([], b :: bs)

/-- The value of a run of digits. -/
def digitsValue (ds : List Byte) : Nat := ds.foldl (fun v b => 10 * v + (b.toNat - 0x30)) 0

/-- A story number: 1 to 5 digits with a value of 65535 or less (R42). -/
def numberOf (ds : List Byte) : Option (BitVec 16) :=
  if 1 ≤ ds.length ∧ ds.length ≤ 5 ∧ digitsValue ds ≤ 65535 then
    some (BitVec.ofNat 16 (digitsValue ds)) else none

/-- The slug after a space; anything else is discarded with a fault; nothing is no fault (R43). -/
def slugOf : List Byte → List Byte × Bool
  | [] => ([], false)
  | b :: bs => if b = 0x20 then (bs.take 24, false) else ([], true)

/-- The rest of a header after the story number's digits (R43). -/
def headerTail (bs : List Byte) : Option (BitVec 16) × List Byte × Bool :=
  match bs with
  | [] => (none, [], false)
  | b :: r =>
    if b = 0x2F then
      let p := digitRun r
      let rep := numberOf p.1
      (rep, (slugOf p.2).1, rep.isNone || (slugOf p.2).2)
    else (none, (slugOf (b :: r)).1, (slugOf (b :: r)).2)

/-- The class byte (R42). -/
def classOf (b : Byte) : Option StoryClass :=
  if h : 0x30 ≤ b.toNat ∧ b.toNat ≤ 0x34 then some ⟨b.toNat - 0x30, by omega⟩ else none

/-- The stored header bytes read in order (R42, R43). -/
def parseHeader (stored : List Byte) : Header :=
  match stored with
  | [] => { cls := 3, number := none, replaced := none, slug := [], fault := true }
  | c :: bs =>
    let p := digitRun bs
    let num := numberOf p.1
    let t := headerTail p.2
    { cls := (classOf c).getD 3, number := num, replaced := t.1, slug := t.2.1,
      fault := (classOf c).isNone || num.isNone || t.2.2 }

/-! ### Events to the Story Table (R45, R61, R62) -/

/-- A story's dry marks are cleared and the circuits they were on settle (R61). -/
def State.clearDry (s : State) (t : Tag) : State :=
  match s.story t with
  | none => s
  | some st =>
    if st.dry = 0 then s
    else
      (allCircs.filter fun n => CircSet.has st.dry n).foldl State.sched
        (s.setStory t (some { st with dry := 0 }))

/-- The circuits that serve the story settle: more copy may be fetched (R61). -/
def State.settleServing (s : State) (t : Tag) : State :=
  (allCircs.filter (s.serving t)).foldl State.settleLine s

/-- Growth: the story's text end moves (R61). -/
def State.growth (s : State) (t : Tag) (e : Nat) : State :=
  ((s.updStory t fun st => { st with textEnd := e }).clearDry t).settleServing t

/-- A TAKE mark in the text (R45, R61). -/
def State.takeEvent (s : State) (t : Tag) : State :=
  s.updStory t fun st => { st with takes := satInc 255 st.takes }

/-- The starvation counts of the circuits that serve the story return to 0: the story is closed (R98). -/
def State.endStarving (s : State) (t : Tag) : State :=
  (allCircs.filter (s.serving t)).foldl (fun s n => s.updSch n fun c => { c with starve := 0 }) s

/-- A close event (R62). -/
def State.closeEvent (s : State) (t : Tag) (e : Nat) (unclosed : Bool) : State :=
  match s.story t with
  | none => s
  | some st =>
    if st.state = .open_ then
      let s := s.setStory t (some { st with state := .closed, textEnd := e,
                                            unclosed := st.unclosed || unclosed })
      (((s.endStarving t).clearDry t).settleServing t).retireTest t
    else s

/-- A pass event (R62). -/
def State.passEvent (s : State) (t : Tag) (unclosed : Bool) : State :=
  (s.updStory t fun st => { st with kwo := false, unclosed := st.unclosed || unclosed }).retireTest t

/-! ### Admission (R56 to R60) -/

/-- An admission request (R44), with the text start and the OPEN offset. -/
structure Admission where
  feed : Feed
  hdr : Header
  openOff : Nat
  textStart : Nat
  stray : Nat
deriving DecidableEq, Repr

/-- The entry chosen: the lowest FREE tag, else the victim, spiked and retired (R56, R57). -/
def State.chooseEntry (s : State) : State × Option Tag :=
  match allTags.find? fun t => (s.story t).isNone with
  | some t => (s, some t)
  | none =>
    match s.admission.find? fun t => (s.story t).any Story.victim with
    | none => (s, none)
    | some t => (s.killLive .victim t, some t)

/-- The route matrix entry of a feed and class (R171). -/
def State.routeEntry (s : State) (f : Feed) (c : StoryClass) : CircSet :=
  s.applied.route[5 * f.1 + c.1]'(by omega)

/-- A set of circuits as bits. -/
def circSetOf (ns : List Circ) : CircSet := ns.foldl CircSet.add 0

/-- The circuits of a route matrix entry that are not OFF (R58). -/
def State.routeList (s : State) (f : Feed) (c : StoryClass) : List Circ :=
  allCircs.filter fun n => CircSet.has (s.routeEntry f c) n && s.circUp n

/-- The record of a newly admitted story (R58). -/
def Admission.record (a : Admission) (route : List Circ) : Story :=
  { state := .open_, kwo := false, feed := a.feed, cls := a.hdr.cls, number := a.hdr.number,
    slug := a.hdr.slug, openOff := a.openOff, textStart := a.textStart, textEnd := a.textStart,
    takes := 0, route := circSetOf route, hdrFault := a.hdr.fault, unclosed := false,
    unrouted := route.isEmpty, deliveries := Vector.replicate 8 none, sent := 0, dry := 0 }

/-- A delivery as created (R87). -/
def newDelivery (textStart : Nat) : Delivery :=
  { state := .waiting, headSent := false, resumeOff := textStart, inDirective := false, chars := 0, subs := 0, lines := 0 }

/-- A delivery is created and queued on one circuit of the route set (R58, R90). -/
def State.createDelivery (t : Tag) (textStart : Nat) (s : State) (n : Circ) : State :=
  ((s.updStory t fun st => st.setDelivery n (newDelivery textStart)).enqueueNew n (.story t)).sched n

/-- STORY_OPENED (R58, R165). -/
def Admission.opened (a : Admission) (t : Tag) (route : List Circ) : Report :=
  { kind := .storyOpened, feed := some a.feed, tag := some t, cls := some a.hdr.cls,
    number := a.hdr.number, valA := wordOf (circSetOf route) 0 0 0, valB := BitVec.ofNat 16 a.stray,
    hdrFault := a.hdr.fault, unrouted := route.isEmpty }

/-- The fifth step: the supersede (R59). -/
def State.supersede (s : State) (a : Admission) (t : Tag) : State :=
  match a.hdr.replaced with
  | none => s
  | some n =>
    let r := s.killNumber .supersede a.feed n
    if r.2 then r.1
    else r.1.post { kind := .supersedeUnmatched, feed := some a.feed, tag := some t, number := some n,
                    valA := (optNumber a.hdr.number).setWidth 32 }

/-- The older story of a duplicate number, if it is OPEN or CLOSED (R60). -/
def State.duplicateOf (s : State) (f : Feed) (n : BitVec 16) : Option Tag :=
  match s.indexFind f n with
  | none => none
  | some t =>
    match s.story t with
    | none => none
    | some st => if st.state = .open_ ∨ st.state = .closed then some t else none

/-- The sixth step: the number index (R60). -/
def State.indexStory (s : State) (a : Admission) (t : Tag) : State :=
  match a.hdr.number with
  | none => s
  | some n =>
    match s.duplicateOf a.feed n with
    | none => s.indexSet a.feed n t
    | some old => (s.indexSet a.feed n t).post
        { kind := .duplicateNumber, feed := some a.feed, tag := some t, number := some n,
          valA := BitVec.ofNat 32 old.1 }

/-- The second step: the record, the two lists, and the feed's account (R58, R78). -/
def State.enterStory (s : State) (a : Admission) (t : Tag) (route : List Circ) : State :=
  let s := s.setStory t (some (a.record route))
  let s := { s with admission := s.admission ++ [t] }
  (s.setFlist a.feed (s.flist a.feed ++ [t])).recompute a.feed

/-- Steps two to six of an admission into the chosen entry (R58 to R60). -/
def State.fillEntry (s : State) (a : Admission) (t : Tag) : State :=
  let route := s.routeList a.feed a.hdr.cls
  let s := route.foldl (State.createDelivery t a.textStart) (s.enterStory a t route)
  let s := s.post (a.opened t route)
  (s.supersede a t).indexStory a t

/-- Admission: answers a tag or a refusal (R56). -/
def State.admitStory (s : State) (a : Admission) : State × Option Tag :=
  let r := s.chooseEntry
  match r.2 with
  | none => (r.1.post { kind := .tableFull, feed := some a.feed, cls := some a.hdr.cls,
                        number := a.hdr.number, valA := BitVec.ofNat 32 a.openOff }, none)
  | some t => (r.1.fillEntry a t, some t)

/-! ### The parse states (R40 to R53) -/

/-- The cursor advances past a byte (R38, R39). -/
def State.advance (s : State) (f : Feed) : State :=
  s.updCtx f fun c => { c with cursor := (c.cursor + 1) % s.fsize f }

def State.setParse (s : State) (f : Feed) (p : Parse) : State := s.updCtx f fun c => { c with parse := p }

/-- An OPEN byte begins a header (R40). -/
def State.beginHeader (s : State) (f : Feed) : State :=
  State.advance (s.updCtx f fun c => { c with parse := .header c.cursor 0 [], strayArmed := true }) f

/-- A CLOSE byte takes the context into BETWEEN: the loose report is armed, and the Mirror is told (R46, R54). -/
def State.closeToBetween (s : State) (f : Feed) : State :=
  (State.advance (s.updCtx f fun c => { c with parse := .between, looseArmed := true }) f).feedBoundary f

/-- LOOSE_COPY (R40, R41, R166). -/
def looseReport (f : Feed) (off cause : Nat) : Report :=
  { kind := .looseCopy, feed := some f, valA := BitVec.ofNat 32 off, valB := BitVec.ofNat 16 cause }

/-- A loose byte (R40). -/
def State.looseByte (s : State) (f : Feed) : State :=
  let c := s.ctx f
  if c.looseArmed then
    State.post (s.setCtx f { c with looseArmed := false }) (looseReport f c.cursor 0)
  else s

/-- A byte in BETWEEN (R40). -/
def State.parseBetween (s : State) (f : Feed) (b : Byte) : State :=
  if b = 0x01 then s.beginHeader f
  else if b = 0x18 then (s.setParse f (.killnum .between 0 0)).advance f
  else if b = 0x02 ∨ b = 0x03 ∨ b = 0x04 ∨ b = 0x0A ∨ 0x20 ≤ b.toNat then (s.looseByte f).advance f
  else s.advance f

/-- A header ends: the cursor passes its ending byte, and the Story Table answers the admission (R44). -/
def State.endHeader (s : State) (f : Feed) (openOff : Nat) (stored : List Byte) (full : Bool) : State :=
  let s := s.advance f
  let h := parseHeader stored
  let r := s.admitStory
    { feed := f, hdr := { h with fault := h.fault || full }, openOff := openOff,
      textStart := (s.ctx f).cursor, stray := (s.ctx f).stray }
  match r.2 with
  | none => r.1.setParse f (.discard none)
  | some t => r.1.updCtx f fun c => { c with parse := .text t, stray := 0 }

/-- A byte in HEADER (R41). -/
def State.parseHeaderByte (s : State) (f : Feed) (openOff count : Nat) (stored : List Byte) (b : Byte) :
    State :=
  if b = 0x02 then s.endHeader f openOff stored false
  else if b = 0x01 then s.beginHeader f
  else if b = 0x03 then (s.post (looseReport f openOff 1)).closeToBetween f
  else
    let stored := if 0x20 ≤ b.toNat then stored ++ [b] else stored
    if count + 1 = 48 then s.endHeader f openOff stored true
    else (s.setParse f (.header openOff (count + 1) stored)).advance f

/-- A byte in TEXT (R45 to R47). -/
def State.parseText (s : State) (f : Feed) (t : Tag) (b : Byte) : State :=
  let off := (s.ctx f).cursor
  if b = 0x04 then (s.takeEvent t).advance f
  else if b = 0x18 then (s.setParse f (.killnum (.text t) 0 0)).advance f
  else if b = 0x03 then (s.closeEvent t off false).closeToBetween f
  else if b = 0x01 then (s.closeEvent t off true).beginHeader f
  else s.advance f

/-- The pass event of an attached story (R48). -/
def State.passAttached (s : State) (tag : Option Tag) (unclosed : Bool) : State :=
  match tag with
  | none => s
  | some t => s.passEvent t unclosed

/-- A byte in DISCARD (R48). -/
def State.parseDiscard (s : State) (f : Feed) (tag : Option Tag) (b : Byte) : State :=
  if b = 0x03 then (s.passAttached tag false).closeToBetween f
  else if b = 0x01 then (s.passAttached tag true).beginHeader f
  else if b = 0x18 then (s.setParse f (.killnum (.discard tag) 0 0)).advance f
  else s.advance f

/-- KILL_UNMATCHED (R53, R65, R165). -/
def unmatchedReport (f : Feed) (num : Option (BitVec 16)) : Report :=
  { kind := .killUnmatched, feed := some f, number := num,
    valA := match num with
      | none => 1
      | some _ => 0 }

/-- A directive of k digits and value v is carried out (R53 step 1). -/
def State.directive (s : State) (f : Feed) (k v : Nat) : State :=
  if 1 ≤ k ∧ k ≤ 5 ∧ v ≤ 65535 then
    let r := s.killNumber .directive f (BitVec.ofNat 16 v)
    if r.2 then r.1 else r.1.post (unmatchedReport f (some (BitVec.ofNat 16 v)))
  else s.post (unmatchedReport f none)

/-- A directive entered from BETWEEN ends: the context enters BETWEEN, the Mirror is told, and the ending byte is
processed if the feed still has a window (R53, R54; log entry 20). -/
def State.returnBetween (s : State) (f : Feed) (b : Byte) : State :=
  let s := (s.setParse f .between).feedBoundary f
  if (s.fcfg f).win = none then s else s.parseBetween f b

/-- The ending byte of a directive in the return state as it stands after the kill (R53 steps 2 and 3). -/
def State.returnParse (s : State) (f : Feed) (b : Byte) : State :=
  match (s.ctx f).parse with
  | .killnum .between _ _ => s.returnBetween f b
  | .killnum (.text t) _ _ => (s.setParse f (.text t)).parseText f t b
  | .killnum (.discard o) _ _ => (s.setParse f (.discard o)).parseDiscard f o b
  | .between => s
  | .header _ _ _ => s
  | .text _ => s
  | .discard _ => s

/-- A byte in KILLNUM (R52, R53). -/
def State.parseKillnum (s : State) (f : Feed) (ret : Ret) (k v : Nat) (b : Byte) : State :=
  if isDigit b then
    (s.setParse f (.killnum ret (satInc 6 k) (if k < 5 then 10 * v + (b.toNat - 0x30) else v))).advance f
  else (s.directive f k v).returnParse f b

/-- One byte of a feed's stream in the parse state the byte before it left (R38 step 2). -/
def State.parseByte (s : State) (f : Feed) (b : Byte) : State :=
  match (s.ctx f).parse with
  | .between => s.parseBetween f b
  | .header o k st => s.parseHeaderByte f o k st b
  | .text t => s.parseText f t b
  | .discard o => s.parseDiscard f o b
  | .killnum r k v => s.parseKillnum f r k v b

/-- The bytes of a taken write; once the feed has no window the rest are dropped (R38, R54). -/
def State.parseBytes (f : Feed) : List Byte → State → State
  | [], s => s
  | b :: bs, s => if (s.fcfg f).win = none then s else State.parseBytes f bs (s.parseByte f b)

/-! ### Overrun (R51, R83, R84) -/

/-- The story a context has open (R51). -/
def Parse.openTag : Parse → Option Tag
  | .text t => some t
  | .discard o => o
  | .killnum (.text t) _ _ => some t
  | .killnum (.discard o) _ _ => o
  | .between => none
  | .header _ _ _ => none
  | .killnum .between _ _ => none

/-- The context with its open story dropped (R51). -/
def Parse.dropOpen : Parse → Parse
  | .killnum _ k v => .killnum (.discard none) k v
  | .text _ => .discard none
  | .discard _ => .discard none
  | .between => .between
  | .header o k st => .header o k st

/-- The intake's response to a cut of the story it has open: DISCARD detached, and the pass event (R51). -/
def State.intakeCut (s : State) (f : Feed) (t : Tag) : State :=
  if (s.ctx f).parse.openTag = some t then
    State.passEvent (s.setParse f (s.ctx f).parse.dropOpen) t false
  else s

/-- Stories are cut from the head until n more bytes fit (R83). -/
def State.cutLoop (f : Feed) (n : Nat) : Nat → State → State
  | 0, s => s
  | k + 1, s =>
    if s.fsize f < (s.acct f).occ + n then
      match s.flist f with
      | [] => s
      | t :: _ => State.cutLoop f n k ((s.killLive .overrun t).intakeCut f t)
    else s

/-- Step 1 of a taken write: the overrun test (R79, R83). A feed that the cuts leave without a window has an account
that receives no event (R76, R85). -/
def State.overrunTest (s : State) (f : Feed) (n : Nat) : State :=
  if s.fsize f < (s.acct f).occ + n then
    let s := State.cutLoop f n 97 s
    if (s.fcfg f).win = none then s else s.warnTest f
  else s

/-! ### A host write in a feed window (R36 to R38) -/

/-- The lowest enabled lane; 0 when none is. -/
def lowestLane (be : BitVec 4) : Nat := (lanesOf be).headD 0

/-- The enabled lanes form one unbroken run (R36). -/
def laneRun : List Nat → Bool
  | a :: b :: r => (b == a + 1) && laneRun (b :: r)
  | _ => true

/-- The write is taken: it starts at the cursor and its lanes are unbroken (R36). -/
def State.isTaken (s : State) (f : Feed) (off : Nat) (be : BitVec 4) : Bool :=
  (off + lowestLane be == (s.ctx f).cursor) && laneRun (lanesOf be)

/-- STRAY_WRITE (R37, R166). -/
def State.strayReport (s : State) (f : Feed) (addr : Nat) : Report :=
  { kind := .strayWrite, feed := some f, valA := BitVec.ofNat 32 addr,
    valB := BitVec.ofNat 16 (s.ctx f).stray }

/-- A stray write (R37). -/
def State.strayWrite (s : State) (f : Feed) (addr : Nat) : State :=
  let armed := (s.ctx f).strayArmed
  let s := s.updCtx f fun c => { c with stray := satInc 65535 c.stray, strayArmed := false }
  if armed then s.post (s.strayReport f addr) else s

/-- The story a growth event would concern (R38 step 3). -/
def Parse.growing : Parse → Option Tag
  | .text t => some t
  | .killnum (.text t) _ _ => some t
  | .between => none
  | .header _ _ _ => none
  | .discard _ => none
  | .killnum .between _ _ => none
  | .killnum (.discard _) _ _ => none

/-- Step 3 of a taken write: the growth event, if the write added to an open story (R38). -/
def State.growthStep (s : State) (f : Feed) : State :=
  match (s.ctx f).parse.growing with
  | none => s
  | some t =>
    match s.story t with
    | none => s
    | some st => if st.textEnd = (s.ctx f).cursor then s else s.growth t (s.ctx f).cursor

/-- Step 4 of a taken write: the account, the warning test and the spike test (R79). -/
def State.accountStep (s : State) (f : Feed) : State :=
  if (s.fcfg f).win = none then s else State.spikeTest 97 ((s.setAccount f).warnTest f) f

/-- A taken write (R38). A window part that the overrun's cuts let be taken or vacate the feed (R73) resets the context
before the first byte: the whole write is then parsed in that context, or dropped (log entry 35). -/
def State.takeWrite (s : State) (f : Feed) (bytes : List Byte) : State :=
  ((State.parseBytes f bytes (s.overrunTest f bytes.length)).growthStep f).accountStep f

/-- The enabled bytes of a write, lowest lane first. -/
def enabledBytes (be : BitVec 4) (d : Word32) : List Byte := (lanesOf be).map (wordByte d)

/-- A host write handed to the Copy Intake (R36). -/
def State.feedWrite (s : State) (f : Feed) (off : Nat) (be : BitVec 4) (d : Word32) : State :=
  if s.isTaken f off be then s.takeWrite f (enabledBytes be d)
  else s.strayWrite f (s.fbase f + off + lowestLane be)

end Sys2Proof.Machine
end

