-- ==== Sys2Proof/Machine/Requests.lean ====
section
/-! DEFINITION. The host's requests to circuits and to the Story Table, the snapshot, and the events of a
circuit's line that time brings (sections 2.3, 6.7, 8.4, 8.5 and chapter 9). -/

namespace Sys2Proof.Machine

/-! ### HOLD, RELEASE, CLEAR, STOP-MOTOR -/

/-- The break's capture record with its hold mark set to b (R149). -/
def LineUnit.markHold (l : LineUnit) (b : Bool) : LineUnit :=
  { l with capture := l.capture.map fun c => { c with holdTaken := b } }

/-- HOLD for circuit n (R139, R149, R153). -/
def State.holdReq (s : State) (n : Circ) : State :=
  match (s.circ n).lu.state with
  | .off | .held => s
  | .stopped | .fault | .lead | .running => s.updLu n fun l => { l with hold := true }
  | .broken => s.updLu n fun l => l.markHold true

/-- RELEASE in BROKEN: both holds are cleared, and a break from HELD becomes one from RUNNING (R149). -/
def LineUnit.releaseBroken (l : LineUnit) : LineUnit :=
  { l with
    hold := false
    capture := l.capture.map fun c =>
      { c with holdTaken := false, from_ := if c.from_ = .held then .running else c.from_ } }

/-- The restart or continuation that is due at RELEASE (R150). -/
def State.takeUpIfDue (s : State) (n : Circ) : State :=
  if (s.circ n).lu.capture.any Capture.restartDue then s.takeUp n else s

/-- RELEASE for circuit n (R141, R149, R150). -/
def State.releaseReq (s : State) (n : Circ) : State :=
  match (s.circ n).lu.state with
  | .off => s
  | .held => (s.takeUpIfDue n).enterRunning n
  | .broken => s.updLu n LineUnit.releaseBroken
  | .stopped | .fault | .lead | .running =>
    if (s.circ n).lu.hold then State.sched (s.updLu n fun l => { l with hold := false }) n else s

/-- The in-service story without a stop order is given the CLEAR stop (R102 step 2); `met` says that it waits for copy
during a break, so that its stop place is reached at once after the clear (R155). -/
def giveClear (met : Bool) (c : Sched) : Sched :=
  match c.item, c.stop with
  | some (.story _), .none => { c with stop := .clear, stopMet := met }
  | _, _ => c

/-- The in-service item is a story that is stopping (R102 step 4). -/
def Sched.stopping (c : Sched) : Bool := c.tag.isSome && c.stop != .none

/-- CIRCUIT_CLEARED (R102, R166). -/
def clearedReport (n : Circ) (removed : Nat) (stopping : Bool) : Report :=
  { kind := .circuitCleared, circ := some n, valA := BitVec.ofNat 32 removed,
    valB := if stopping then 1 else 0 }

/-- CLEAR for circuit n (R102). -/
def State.clearReq (s : State) (n : Circ) : State :=
  let removed := (s.circ n).sch.queue.length
  let s := s.emptyQueue n
  let s := s.updSch n (giveClear ((s.circ n).lu.state == .broken && s.waitingCopy n))
  let s := s.updSch n fun c => { c with point := .none }
  (s.post (clearedReport n removed (s.circ n).sch.stopping)).sched n

/-- STOP-MOTOR for circuit n (R142). -/
def State.stopMotorReq (s : State) (n : Circ) : State := if s.isIdle n then s.enterStopped n else s

/-! ### The story request slot (R29) -/

/-- The entry a staged tag names, if it is not FREE (R29). -/
def State.requestTag (s : State) : Option Tag :=
  let v := (staged8 s.mirror.staging 9).toNat
  if h : v < 96 then (if (s.story ⟨v, h⟩).isSome then some ⟨v, h⟩ else none) else none

/-- The class a RECLASS names, if it is a class (R29). -/
def State.requestClass (s : State) : Option StoryClass :=
  let v := (staged8 s.mirror.staging 10).toNat
  if h : v < 5 then some ⟨v, h⟩ else none

/-- KILL-TAG (R29, R64). The result word joins the write list before what the kill itself lists, such as the
acknowledgement of an apply that it completes (log entry 8). -/
def State.killTagReq (s : State) : State :=
  match s.requestTag with
  | none => s.listResult 1
  | some t => (s.listResult 0).killLive .request t

/-- RECLASS (R29, R71); its result word is listed first, as for KILL-TAG (log entry 8). -/
def State.reclassReq (s : State) : State :=
  match s.requestTag with
  | none => s.listResult 1
  | some t =>
    match s.requestClass with
    | none => s.listResult 2
    | some c => (s.listResult 0).reclass t c

/-! ### The snapshot (R30, R172) -/

/-- The in-service item byte of a circuit record (R172). -/
def itemByte : Option Item → Byte
  | none => 0xFF
  | some (.notice _) => 0xFE
  | some (.story t) => byteN t.1

/-- A circuit status record (R30, R172). -/
def Circuit.record (c : Circuit) : List Byte :=
  [byteN c.lu.state.code, byteN c.sch.queue.length, itemByte c.sch.item, byteN c.snd.column,
    byteN (planeNum c.snd.plane)]
  ++ bytes16 c.snd.lineCount
  ++ (match c.lu.capture with
      | none => [0, 0, 0]
      | some k => byteN k.origin.code :: bytes16 k.lineCount)
  ++ List.replicate 6 0

/-- The delivery byte of a story on a circuit (R172). -/
def Story.deliveryByte (st : Story) (n : Circ) : Byte :=
  match st.delivery n with
  | none => 0xFF
  | some d => byteN d.state.code

/-- A story summary (R30, R172). -/
def summaryOf (t : Tag) : Option Story → List Byte
  | none => [byteN t.1, 0] ++ List.replicate 12 0xFF ++ [0, 0]
  | some st =>
    [byteN t.1, byteN st.state.code, byteN st.cls.1, byteN st.feed.1] ++ bytes16 (optNumber st.number)
    ++ allCircs.map st.deliveryByte ++ [0, 0]

/-- The 420 words of the snapshot area in writing order: circuits, stories, header (R30). -/
def State.snapWords (s : State) (count : Word32) : List Word32 :=
  (allCircs.flatMap fun n => wordsOf (s.circ n).record)
  ++ (allTags.flatMap fun t => wordsOf (summaryOf t (s.story t)))
  ++ [count, 0, 0, 0]

/-- A snapshot is captured and its writing begins (R30). Its header holds the count after the increment (log entry 51). -/
def State.capture (s : State) : State :=
  let k := s.mirror.snapCount + 1
  { s with mirror := { s.mirror with
      snapCount := k, snap := some { words := s.snapWords k, next := 0, waiting := false } } }

/-- SNAPSHOT (R30). -/
def State.snapshotReq (s : State) : State :=
  match s.mirror.snap with
  | none => s.capture
  | some j => { s with mirror := { s.mirror with snap := some { j with waiting := true } } }

/-! ### Events of the line -/

/-- The idle timer of circuit n expires (R138). The count is not compared again with a timeout that the slot completion of
the same tick has lengthened, or with a timer it has restarted (log entry 43). -/
def State.idleExpire (s : State) (n : Circ) : State :=
  if (s.circ n).lu.state == .running && (s.circ n).lu.idle.isSome && (s.ccfg n).idleTicks != 0 then
    s.enterStopped n
  else s

/-- Circuit n's starvation count reaches a starve limit above 0 while its delivery waits for copy (R99). -/
def State.starveReached (s : State) (n : Circ) : State :=
  if (s.circ n).lu.state == .running && s.waitingCopy n && (s.ccfg n).starveLim != 0 then
    State.sched (s.updSch n fun c =>
      { c with starve := max c.starve (s.ccfg n).starveLim, waitEnd := (s.circ n).snd.readPos }) n
  else s

/-- Circuit n's sense input reads space, or mark, under the applied invert (R147). -/
def State.readsMarkOn (s : State) (n : Circ) : Bool := (s.circ n).lu.readsMark (s.ccfg n).invert

/-- A break can be detected in these states (R148). -/
def CState.breakable : CState → Bool
  | .lead => true
  | .running => true
  | .held => true
  | .off => false
  | .stopped => false
  | .broken => false
  | .fault => false

/-- Circuit n's space run reaches the break limit (R148). -/
def State.breakReached (s : State) (n : Circ) : State :=
  if (s.circ n).lu.state.breakable && !(s.readsMarkOn n) then
    let s := s.updLu n fun l =>
      { l with spaceRun := max l.spaceRun (s.ccfg n).brkLimit, brkDet := true }
    if (s.circ n).lu.state == .held then s.enterBroken n else s
  else s

/-- A loop fault can be detected in every state but OFF and FAULT (R152). -/
def CState.faultable : CState → Bool
  | .off => false
  | .fault => false
  | .stopped => true
  | .lead => true
  | .running => true
  | .held => true
  | .broken => true

/-- Circuit n's space run reaches the fault limit (R152). -/
def State.faultReached (s : State) (n : Circ) : State :=
  if (s.circ n).lu.state.faultable && !(s.readsMarkOn n) then
    let s := s.updLu n fun l =>
      { l with spaceRun := max l.spaceRun (s.ccfg n).fltLimit, fltDet := true }
    if (s.circ n).lu.state == .lead || (s.circ n).lu.state == .running then s else s.enterFault n
  else s

/-- The mark run stands at the clear limit at least. -/
def State.forceMark (s : State) (n : Circ) : State :=
  s.updLu n fun l => { l with markRun := max l.markRun (s.ccfg n).clrLimit }

/-- Circuit n's mark run reaches the clear limit in BROKEN (R150). -/
def State.clearReached (s : State) (n : Circ) : State :=
  if (s.circ n).lu.state == .broken && s.readsMarkOn n then (s.forceMark n).clearBreak n else s

/-- Circuit n's mark run reaches the clear limit in FAULT (R153). -/
def State.restoreReached (s : State) (n : Circ) : State :=
  if (s.circ n).lu.state == .fault && s.readsMarkOn n then (s.forceMark n).restore n else s

/-- Circuit n's return-sense pin takes a level; a change restarts the run of the new level (R147). -/
def State.senseLevel (s : State) (n : Circ) (asserted : Bool) : State :=
  if (s.circ n).lu.sense = asserted then s
  else s.updLu n fun l => { l with sense := asserted, spaceRun := 0, markRun := 0 }

end Sys2Proof.Machine
end

