-- ==== Sys2Proof/Machine/ControlPage.lean ====
section
/-! DEFINITION. The Control Mirror: staging, the start of an apply, requests, the soft reset and the page load
(chapter 2). -/

namespace Sys2Proof.Machine

/-! ### The start of an apply (R19 to R21, R27, R85) -/

/-- The mark of a conditional part as a valid generation leaves it: out of the set if its staged value matches,
still vacated if it was, else waiting (R21, R27). -/
def PartMark.recompute (p : PartMark) (differs : Bool) : PartMark :=
  if !differs then .clear else if p == .vacated then .vacated else .waiting

/-- The pending set against staging (R21, R27). -/
def State.markParts (s : State) : State :=
  let m := s.mirror.staging
  { s with mirror := { s.mirror with
      pendWin := Vector.ofFn fun f : Feed =>
        (vget s.mirror.pendWin f).recompute (stagedWin m f != (s.fcfg f).win)
      pendRing := s.mirror.pendRing.recompute (stagedRing m != s.applied.ring)
      pendCirc := Vector.ofFn fun n : Circ => stagedCirc m n != s.ccfg n } }

/-- The General part is taken (R21, R163). -/
def State.takeGeneral (s : State) : State :=
  let m := s.mirror.staging
  { s with applied := { s.applied with
      attnEnable := stagedFlag m 0x14, attnMask := staged32 m 0x18, prefix_ := stagedPrefix m } }

/-- The Route matrix part is taken (R21). -/
def State.takeRoute (s : State) : State :=
  { s with applied := { s.applied with route := stagedRoute s.mirror.staging } }

/-- The levels part in force. -/
def FeedCfg.levels (c : FeedCfg) : LevelsPart :=
  { codeA := c.codeA, codeB := c.codeB, w16 := c.w16, k16 := c.k16 }

/-- The entry with a levels part taken. -/
def FeedCfg.withLevels (c : FeedCfg) (l : LevelsPart) : FeedCfg :=
  { c with codeA := l.codeA, codeB := l.codeB, w16 := l.w16, k16 := l.k16 }

/-- A levels part that differs is taken: blocked tag none and the warning test, but not on a disabled feed, whose
account receives no event (R85, R86). -/
def State.takeLevels (s : State) (f : Feed) : State :=
  let l := stagedLevels s.mirror.staging f
  if l = (s.fcfg f).levels then s
  else
    let s := s.setFcfg f ((s.fcfg f).withLevels l)
    if (s.fcfg f).win = none then s
    else State.warnTest (s.setAcct f { s.acct f with blocked := none }) f

/-- A pending window part whose condition holds at the start of an apply or in a soft reset (R22, R33). -/
def State.tryWin (s : State) (f : Feed) : State :=
  if vget s.mirror.pendWin f != .clear && s.winCond f then s.examineWin f else s

def State.tryRing (s : State) : State :=
  if s.mirror.pendRing != .clear && s.ringCond then s.examineRing else s

/-- A pending circuit part whose condition holds at the start of an apply or in a soft reset; one of a RUNNING circuit
waits for the next slot completion at column 0 (R21, R22; log entry 41). -/
def State.tryCirc (s : State) (n : Circ) : State :=
  if vget s.mirror.pendCirc n && (s.circ n).lu.state.quiet then (s.partTaken n (s.examineCirc n)).sched n
  else s

/-- Every pending conditional part whose condition holds is examined, in the order of R21's table. -/
def State.tryParts (s : State) : State :=
  allCircs.foldl State.tryCirc (allFeeds.foldl State.tryWin s).tryRing

/-- A generation that passes validation (R21, R26, R27). -/
def State.applyValid (s : State) (gen : Byte) : State :=
  let s := { s with mirror := { s.mirror with genValid := gen, applyPending := true } }
  let s := s.markParts.takeGeneral.takeRoute
  let s := (allFeeds.foldl State.takeLevels s).tryParts.applyCheck
  if s.mirror.applyPending then s.listStatus 1 0xFF else s

/-- A refused generation (R20). -/
def State.applyRefused (s : State) (gen : Byte) (entry : Nat) : State :=
  (s.listStatus 3 entry).post
    { kind := .applyRefused, valA := gen.setWidth 32, valB := BitVec.ofNat 16 entry }

/-- An apply starts with the generation staging holds (R19, R20). -/
def State.startApply (s : State) : State :=
  let gen := staged8 s.mirror.staging 0
  let s := { s with mirror := { s.mirror with genSeen := gen } }
  match s.refusedEntry with
  | some e => s.applyRefused gen e
  | none => s.applyValid gen

/-- The generation byte is examined after a write that enabled it (R19). -/
def State.examineGen (s : State) : State :=
  if s.mirror.load.isSome || staged8 s.mirror.staging 0 == s.mirror.genSeen then s else s.startApply

/-! ### Soft reset (R16, R33, R34) -/

/-- Live stories in the table (R166). -/
def State.liveCount (s : State) : Nat := (allTags.filter fun t => (s.story t).isSome).length

/-- Items queued on all circuits (R166). -/
def State.queuedCount (s : State) : Nat := (allCircs.map fun n => (s.circ n).sch.queue.length).sum

/-- The word at the port belongs to work the soft reset discards (R16). -/
def Flight.orphaned (f : Flight) : Flight :=
  match f.by_ with
  | .fetcher _ => { f with orphan := true }
  | .writer => { f with orphan := true }
  | .host => f
  | .mirror _ => f

/-- A Line Unit after a soft reset (R33, R146, R157). -/
def LineUnit.softReset (l : LineUnit) : LineUnit :=
  { LineUnit.start with state := if l.state = .off then .off else .stopped, sense := l.sense }

/-- A circuit after a soft reset (R33, R108, R109, R146, R157). Its next fetch offset, of which R33 and R146 say nothing
there, becomes 0 as after power-on reset (log entry 39). -/
def Circuit.softReset (c : Circuit) : Circuit :=
  { lu := c.lu.softReset, sch := Sched.start, snd := Sender.start, ftc := Fetcher.start }

/-- Every block but the Control Mirror in its state after a soft reset (R33). -/
def State.emptied (s : State) : State :=
  { s with
    bus := { s.bus with port := s.bus.port.map Flight.orphaned }
    intake := Vector.replicate 12 FeedCtx.start
    stories := Vector.replicate 96 none
    admission := []
    feedLists := Vector.replicate 12 []
    index := []
    history := []
    accounts := Vector.replicate 12 Account.start
    circuits := s.circuits.map Circuit.softReset
    pool := Vector.replicate 32 none
    writer := Writer.start }

/-- RESET_DONE (R34, R166). -/
def resetReport (stories items : Nat) : Report :=
  { kind := .resetDone, valA := BitVec.ofNat 32 stories, valB := BitVec.ofNat 16 items }

/-- A soft reset is taken (R33, R34). -/
def State.softReset (s : State) : State :=
  let r := resetReport s.liveCount s.queuedCount
  let s := s.emptied
  let s := State.post { s with mirror := { s.mirror with resetWait := true } } r
  if s.mirror.applyPending then s.tryParts.applyCheck else s

/-! ### Requests carried by a write (R17, R28, R29, R33) -/

/-- A value in the soft-reset request byte. -/
def State.resetRequest (s : State) (v : Byte) : State :=
  if v = 0 then s else if v = 1 then s.softReset else s.listZero 4

/-- A value in the kind byte of the story request slot (R29). -/
def State.storyRequest (s : State) (v : Byte) : State :=
  if v = 0 then s
  else if v = 1 then s.killTagReq
  else if v = 2 then s.reclassReq
  else if v = 3 then s.snapshotReq
  else s.listZero 8

/-- The action of a circuit request value (R28). -/
def State.circAction (s : State) (n : Circ) (v : Byte) : State :=
  if v = 1 then s.holdReq n
  else if v = 2 then s.releaseReq n
  else if v = 3 then s.clearReq n
  else if v = 4 then s.stopMotorReq n
  else s

/-- A value in circuit n's request byte: the write-back, then the action (R28). -/
def State.circRequest (s : State) (n : Circ) (v : Byte) : State :=
  if v = 0 then s else (s.listZero (0x0C + n.1)).circAction n v

/-- The request, if any, that a page byte carries once staging holds it (R17). -/
def State.takeRequest (s : State) (o : Nat) : State :=
  let v := staged8 s.mirror.staging o
  if o = 4 then s.resetRequest v
  else if o = 8 then s.storyRequest v
  else if h : 0x0C ≤ o ∧ o < 0x14 then s.circRequest ⟨o - 0x0C, by omega⟩ v
  else s

/-- The request bytes a write enabled, in ascending offset. -/
def State.takeRequests (off : Nat) : List Nat → State → State
  | [], s => s
  | i :: is, s => State.takeRequests off is (s.takeRequest (off + i))

/-- Staging takes the enabled bytes of a host write (R17). -/
def State.stageWrite (s : State) (off : Nat) (be : BitVec 4) (d : Word32) : State :=
  { s with mirror := { s.mirror with staging := memWriteLanes s.mirror.staging off d (lanesOf be) } }

/-- A completed host write of the control page, handed to the Mirror (R17). -/
def State.pageWrite (s : State) (off : Nat) (be : BitVec 4) (d : Word32) : State :=
  let s := State.takeRequests off (lanesOf be) (s.stageWrite off be d)
  if off = 0 && be.getLsbD 0 then s.examineGen else s

/-! ### The page load (R31) -/

/-- The page offsets that hold request bytes (R31). -/
def isRequestByte (o : Nat) : Bool := o == 4 || o == 8 || (decide (0x0C ≤ o) && decide (o < 0x14))

/-- The request bytes of a loaded word that are not zero. -/
def loadedRequests (off : Nat) (d : Word32) : List Nat :=
  ([0, 1, 2, 3].filter fun i => isRequestByte (off + i) && wordByte d i != 0).map (off + ·)

/-- The load ends: nonzero request bytes are written back, and the loaded generation is applied (R31). -/
def State.loadEnd (s : State) (nonzero : List Nat) : State :=
  let s := nonzero.foldl State.listZero { s with mirror := { s.mirror with load := none } }
  s.startApply

/-- A word of the page load has been read (R31). -/
def State.loadWord (s : State) (d : Word32) : State :=
  match s.mirror.load with
  | none => s
  | some j =>
    let nz := j.nonzero ++ loadedRequests j.next d
    let s := s.stageWrite j.next 0xF d
    if j.next + 4 < pageSize then
      { s with mirror := { s.mirror with load := some { next := j.next + 4, nonzero := nz } } }
    else s.loadEnd nz

/-- A word of the snapshot has been written; after the last, the result is listed and a waiting SNAPSHOT is
captured (R30). -/
def State.snapWord (s : State) : State :=
  match s.mirror.snap with
  | none => s
  | some j =>
    if j.next + 1 < j.words.length then
      { s with mirror := { s.mirror with snap := some { j with next := j.next + 1 } } }
    else
      let s := State.listResult { s with mirror := { s.mirror with snap := none } } 0
      if j.waiting then s.capture else s

end Sys2Proof.Machine
end

