-- ==== Sys2Proof/Machine/BusPassage.lean ====
section
/-! DEFINITION. The Bus Passage: host transactions, the hand-over of their effects, the completions of the part's
own accesses, and RESET (chapter 1). -/

namespace Sys2Proof.Machine

/-! ### Host transactions (R2, R5, R6) -/

/-- What a completed host transaction hands on (R6). -/
inductive HandOver
  | page (off : Nat)
  | copy (f : Feed) (off : Nat)
  | report (slot word : Nat)
  | nothing
deriving DecidableEq, Repr

/-- The class of a write with some byte enabled, and of a read, as R6 hands it over. -/
def AddrClass.handOver (c : AddrClass) (write : Bool) : HandOver :=
  match c with
  | .control off => if write then .page off else .nothing
  | .feed f off => if write then .copy f off else .nothing
  | .report j w => if write then .nothing else .report j w
  | .other => .nothing

/-- What a host transaction hands on at its completion (R5, R6). -/
def State.handOver (s : State) (t : Txn) : HandOver :=
  if t.write && t.be == 0 then .nothing else (s.classify (Txn.word t)).handOver t.write

/-- A read of this slot and word consumes the head record (R161). -/
def State.consumes (s : State) (slot word : Nat) : Bool :=
  word == 0 && slot == s.writer.head && decide (0 < s.writer.count)

/-- A host read in the ring handed to the Report Writer (R161). -/
def State.ringRead (s : State) (slot word : Nat) : State :=
  if s.consumes slot word then s.consumeHead.ringBoundary.pumpReports else s

/-- The effect handed on (R6). -/
def State.handOn (s : State) (t : Txn) : State :=
  match s.handOver t with
  | .page off => s.pageWrite off t.be t.data
  | .copy f off => s.feedWrite f off t.be t.data
  | .report j w => s.ringRead j w
  | .nothing => s

/-- What the host is answered (R2). -/
def State.reply (s : State) (t : Txn) : HostReply :=
  { data := if t.write then 0 else memReadWord s.mem (Txn.word t), busError := false }

/-- Memory completes the host transaction: it is carried out, answered and handed on, the port is free (R2). -/
def State.finishHost (s : State) (t : Txn) : State :=
  let s := { s.freePort with
    mem := memApply s.mem t, bus := { s.freePort.bus with hostReply := some (s.reply t) } }
  (s.handOn t).settleBus

/-- The completion of the host transaction in flight if it is what a row names; without one there is no such
event (log entry 1). -/
def State.completeHost (s : State) (names : State → Txn → Bool) : State :=
  match s.hostTxn with
  | none => s
  | some t => if names s t then s.finishHost t else s

/-- Memory completes the forwarded host read with a read fault (R3). -/
def State.hostFault (s : State) : State :=
  match s.hostTxn with
  | none => s
  | some t =>
    if t.write then s
    else State.settleBus { s.freePort with
      bus := { s.freePort.bus with hostReply := some { data := 0, busError := true } } }

/-- The request a host presents, in its place: held on the host side while the host's last transaction is in flight,
else the waiting host request. The passage has at most one request waiting or in flight (R9, R14). -/
def Bus.presented (b : Bus) (inFlight : Bool) (t : Txn) : Bus :=
  if inFlight then { b with hostHeld := some t } else { b with hostWaiting := some t }

/-- The host presents a transaction (R1, R2). While an earlier request waits or is held it has no effect: the host
presents it again (log entry 22). -/
def State.present (s : State) (t : Txn) : State :=
  if s.bus.hostWaiting.isSome || s.bus.hostHeld.isSome then s
  else State.settleBus { s with bus := s.bus.presented s.hostTxn.isSome t }

/-! ### What the rows of host writes name -/

/-- The page offset of a host write handed to the Mirror. -/
def State.pageOff (s : State) (t : Txn) : Option Nat :=
  match s.handOver t with
  | .page off => some off
  | _ => none

/-- CONTROL_PAGE_WRITE: a host write of the control page (R17). -/
def namesPage (s : State) (t : Txn) : Bool := (s.pageOff t).isSome

/-- The write enables the page byte at offset o and carries a value there that passes the test. -/
def carries (o : Nat) (test : Byte → Bool) (s : State) (t : Txn) : Bool :=
  s.pageOff t == some (o / 4 * 4) && t.be.getLsbD (o % 4) && test (wordByte t.data (o % 4))

/-- GENERATION_WRITE: the write leaves the generation byte different from the one last seen, outside the page
load (R19). -/
def namesGen (s : State) (t : Txn) : Bool :=
  carries 0 (fun b => b != s.mirror.genSeen) s t && s.mirror.load.isNone

/-- SOFT_RESET (R33). -/
def namesReset (s : State) (t : Txn) : Bool := carries 4 (fun b => b == 1) s t

/-- A circuit request of value v for circuit n (R28). -/
def namesCirc (n : Circ) (v : Byte) (s : State) (t : Txn) : Bool :=
  carries (0x0C + n.1) (fun b => b == v) s t

/-- A story request of kind v (R29). -/
def namesStory (v : Byte) (s : State) (t : Txn) : Bool := carries 8 (fun b => b == v) s t

/-- HOST_FEED_WRITE: a host write in a feed window (R36). -/
def namesFeed (s : State) (t : Txn) : Bool :=
  match s.handOver t with
  | .copy _ _ => true
  | _ => false

/-- REPORT_HEAD_READ: a host read that consumes the head record (R161). -/
def namesHead (s : State) (t : Txn) : Bool :=
  match s.handOver t with
  | .report j w => s.consumes j w
  | _ => false

/-- HOST_TRANSACTION_COMPLETE: the transaction hands on nothing that has an effect (R6, R161). -/
def namesNothing (s : State) (t : Txn) : Bool :=
  match s.handOver t with
  | .nothing => true
  | .report j w => !(s.consumes j w)
  | .page _ => false
  | .copy _ _ => false

/-! ### Completions of the part's own accesses (R3, R9) -/

/-- The word a completed read of the part's own answers: four zero bytes with a fault (R3). -/
def State.ownWord (s : State) (t : Txn) (fault : Bool) : Word32 :=
  if fault then 0 else memReadWord s.mem (Txn.word t)

/-- The four bytes of a bus word in lane order. -/
def bytesOf (d : Word32) : List Byte := [wordByte d 0, wordByte d 1, wordByte d 2, wordByte d 3]

/-- MEMORY_FAULT (R154, R166). -/
def faultUnitReport (n : Circ) (t : Tag) (st : Story) (f : Fetch) : Report :=
  { kind := .memoryFault, feed := some st.feed, circ := some n, tag := some t, cls := some st.cls,
    number := st.number, valA := BitVec.ofNat 32 f.off, valB := BitVec.ofNat 16 f.lim }

/-- MEMORY_FAULT is posted for a kept fetch with a fault (R154). -/
def State.tellFault (s : State) (n : Circ) (f : Fetch) : State :=
  match (s.circ n).sch.tag with
  | none => s
  | some t =>
    match s.story t with
    | none => s
    | some st => if f.fault then s.post (faultUnitReport n t st f) else s

/-- A fetch completes: its unit enters the lookahead, or its data is dropped (R145, R154). -/
def State.fetchDone (s : State) (n : Circ) (f : Fetch) : State :=
  match f.fate with
  | .keep =>
    (s.updFtc n fun x => { x with look := addUnit f x.look, fetch := none }).tellFault n f
  | .dropBack => s.updFtc n fun x =>
      { x with fetch := none, nextFetch := if (s.circ n).sch.tag.isSome then f.off else x.nextFetch }
  | .dropStale => s.updFtc n fun x => { x with fetch := none }

/-- A fetch with one more word. -/
def Fetch.addWord (f : Fetch) (d : Word32) (fault : Bool) : Fetch :=
  { f with bytes := f.bytes ++ bytesOf d, fault := f.fault || fault }

/-- A word of circuit n's fetch has been read (R9). -/
def State.fetchWord (s : State) (n : Circ) (d : Word32) (fault : Bool) : State :=
  match (s.circ n).ftc.fetch with
  | none => s
  | some f =>
    let f := f.addWord d fault
    if 16 ≤ f.bytes.length then (s.fetchDone n f).settleLine n
    else s.updFtc n fun x => { x with fetch := some f }

/-- A fetcher's word read completes (R3, R9, R16). -/
def State.fetchComplete (s : State) (fault : Bool) : State :=
  match s.bus.port with
  | some { by_ := .fetcher n, txn := t, orphan := o } =>
    let d := s.ownWord t fault
    State.settleBus (if o then s.freePort else s.freePort.fetchWord n d fault)
  | _ => s

/-- A word of the record in writing has been written (R9, R160). -/
def State.recordWord (s : State) : State :=
  match s.writer.rec_ with
  | none => s
  | some j =>
    if j.done + 1 < 4 then s.setWriter { s.writer with rec_ := some { j with done := j.done + 1 } }
    else (s.recordVisible j).pumpReports

/-- A word of a record completes at memory (R9, R16). -/
def State.recordComplete (s : State) : State :=
  match s.bus.port with
  | some { by_ := .writer, txn := t, orphan := o } =>
    let s := { s.freePort with mem := memApply s.mem t }
    State.settleBus (if o then s else s.recordWord)
  | _ => s

/-- A word of the write list completes at memory (R18). -/
def State.listComplete (s : State) : State :=
  match s.bus.port with
  | some { by_ := .mirror .list, txn := t, orphan := _ } =>
    State.settleBus { s.freePort with mem := memApply s.mem t }
  | _ => s

/-- A word of the snapshot completes at memory (R30). -/
def State.snapComplete (s : State) : State :=
  match s.bus.port with
  | some { by_ := .mirror .snap, txn := t, orphan := _ } =>
    State.settleBus (State.snapWord { s.freePort with mem := memApply s.mem t })
  | _ => s

/-- A page-load read completes (R3, R31). -/
def State.loadComplete (s : State) (fault : Bool) : State :=
  match s.bus.port with
  | some { by_ := .mirror .load, txn := t, orphan := _ } =>
    State.settleBus (s.freePort.loadWord (s.ownWord t fault))
  | _ => s

/-! ### RESET (R13 to R15) -/

/-- The enabled lanes of a write that RESET ended in flight: each holds the value written or its earlier one
(R14; log entry 4). -/
def landLanes (k : Nat) (be : BitVec 4) : List Nat :=
  (lanesOf be).filter fun i => Config.resetWriteLands k i

/-- Story memory after RESET is asserted (R14). -/
def State.memAfterReset (s : State) : Memory :=
  match s.bus.port with
  | some f => if f.txn.write then memWriteLanes s.mem (Txn.word f.txn) f.txn.data (landLanes s.freeCount f.txn.be)
    else s.mem
  | none => s.mem

/-- The request the host still presents: the one RESET ended in flight, else the waiting one (R14). -/
def State.stillPresented (s : State) : Option Txn :=
  match s.hostTxn with
  | some t => some t
  | none => s.bus.hostWaiting

/-- A circuit after power-on reset; its return-sense pin is an input and keeps its level (R146, R157). -/
def Circuit.powerOn (c : Circuit) : Circuit :=
  { Circuit.start with lu := { LineUnit.start with sense := c.lu.sense } }

/-- RESET is asserted (R14, R15, R32, R35, R75, R86, R108, R109, R146, R157, R167). -/
def State.powerOn (s : State) : State :=
  { State.reset with
    bus := { Bus.start with hostWaiting := s.stillPresented }
    circuits := s.circuits.map Circuit.powerOn
    mem := s.memAfterReset
    freeCount := s.freeCount + 1
    pending := s.pending }

/-- RESET is released with the levels of the PAGE and LOAD pins (R13, R31, R32); released already, the pins have
no effect. -/
def State.release (s : State) (page : BitVec 2) (load : Bool) : State :=
  if s.bus.resetAsserted then
    let s := { s with bus := { s.bus with resetAsserted := false, page := page, loadStrap := load } }
    State.settleBus
      (if load then { s with mirror := { s.mirror with load := some { next := 0, nonzero := [] } } }
       else s.listAck 0 0 0xFF)
  else s

end Sys2Proof.Machine
end

