-- ==== Sys2Proof/Machine/BusCommands.lean ====
section
/-! DEFINITION. The commands of RESET and of host transactions (chapter 1). -/

namespace Sys2Proof.Machine

/-- POWER_ON_RESET (R14). -/
def execPowerOnReset (s : State) : Host.Outcome State Fault Refusal := .next s.powerOn

/-- RESET_RELEASE (R13). -/
def execResetRelease (page : BitVec 2) (load : Bool) (s : State) : Host.Outcome State Fault Refusal :=
  .next (s.release page load)

/-- HOST_REQUEST (R2). -/
def execHostRequest (t : Txn) (s : State) : Host.Outcome State Fault Refusal := .next (s.present t)

/-- HOST_READ_FAULT (R3). -/
def execHostReadFault (s : State) : Host.Outcome State Fault Refusal := .next s.hostFault

/-- HOST_FEED_WRITE (R36, R38). -/
def execHostFeedWrite (s : State) : Host.Outcome State Fault Refusal := .next (s.completeHost namesFeed)

/-- REPORT_HEAD_READ (R161). -/
def execReportHeadRead (s : State) : Host.Outcome State Fault Refusal := .next (s.completeHost namesHead)

/-- HOST_TRANSACTION_COMPLETE (R2). -/
def execHostTransactionComplete (s : State) : Host.Outcome State Fault Refusal :=
  .next (s.completeHost namesNothing)

end Sys2Proof.Machine
end

