-- ==== Sys2Proof/Machine/LineCommands.lean ====
section
/-! DEFINITION. The commands of a circuit's line: its slots, timers and sense input (chapters 8 and 9). -/

namespace Sys2Proof.Machine

/-- SLOT_COMPLETE (R134). -/
def execSlotComplete (n : Circ) (s : State) : Host.Outcome State Fault Refusal :=
  .next (s.slotDone n).settleBus

/-- IDLE_TIMEOUT (R138). -/
def execIdleTimeout (n : Circ) (s : State) : Host.Outcome State Fault Refusal :=
  .next (s.idleExpire n).settleBus

/-- STARVE_LIMIT_REACHED (R99). -/
def execStarveLimitReached (n : Circ) (s : State) : Host.Outcome State Fault Refusal :=
  .next (s.starveReached n).settleBus

/-- BREAK_DETECTED (R148). -/
def execBreakDetected (n : Circ) (s : State) : Host.Outcome State Fault Refusal :=
  .next (s.breakReached n).settleBus

/-- BREAK_CLEAR (R150). -/
def execBreakClear (n : Circ) (s : State) : Host.Outcome State Fault Refusal :=
  .next (s.clearReached n).settleBus

/-- LOOP_FAULT (R152). -/
def execLoopFault (n : Circ) (s : State) : Host.Outcome State Fault Refusal :=
  .next (s.faultReached n).settleBus

/-- FAULT_RESTORE (R153). -/
def execFaultRestore (n : Circ) (s : State) : Host.Outcome State Fault Refusal :=
  .next (s.restoreReached n).settleBus

/-- SENSE_INPUT_LEVEL_CHANGE (R147). -/
def execSenseInputLevelChange (n : Circ) (asserted : Bool) (s : State) : Host.Outcome State Fault Refusal :=
  .next (s.senseLevel n asserted)

end Sys2Proof.Machine
end

