-- ==== Sys2Proof/Machine/PageCommands.lean ====
section
/-! DEFINITION. The commands a host write of the control page carries (chapter 2). -/

namespace Sys2Proof.Machine

/-- CONTROL_PAGE_WRITE (R17). -/
def execControlPageWrite (s : State) : Host.Outcome State Fault Refusal := .next (s.completeHost namesPage)

/-- GENERATION_WRITE (R19). -/
def execGenerationWrite (s : State) : Host.Outcome State Fault Refusal := .next (s.completeHost namesGen)

/-- SOFT_RESET (R33). -/
def execSoftReset (s : State) : Host.Outcome State Fault Refusal := .next (s.completeHost namesReset)

/-- HOLD (R139). -/
def execHold (n : Circ) (s : State) : Host.Outcome State Fault Refusal :=
  .next (s.completeHost (namesCirc n 1))

/-- RELEASE (R141). -/
def execRelease (n : Circ) (s : State) : Host.Outcome State Fault Refusal :=
  .next (s.completeHost (namesCirc n 2))

/-- CLEAR (R102). -/
def execClear (n : Circ) (s : State) : Host.Outcome State Fault Refusal :=
  .next (s.completeHost (namesCirc n 3))

/-- STOP_MOTOR (R142). -/
def execStopMotor (n : Circ) (s : State) : Host.Outcome State Fault Refusal :=
  .next (s.completeHost (namesCirc n 4))

/-- KILL_TAG (R29). -/
def execKillTag (s : State) : Host.Outcome State Fault Refusal := .next (s.completeHost (namesStory 1))

/-- RECLASS (R71). -/
def execReclass (s : State) : Host.Outcome State Fault Refusal := .next (s.completeHost (namesStory 2))

/-- SNAPSHOT (R30). -/
def execSnapshot (s : State) : Host.Outcome State Fault Refusal := .next (s.completeHost (namesStory 3))

end Sys2Proof.Machine
end

