-- ==== Sys2Proof/Machine/PortCommands.lean ====
section
/-! DEFINITION. The commands that complete the part's own accesses at the memory port (R9). -/

namespace Sys2Proof.Machine

/-- FETCH_WORD_COMPLETE (R9, R145). -/
def execFetchWordComplete (fault : Bool) (s : State) : Host.Outcome State Fault Refusal :=
  .next (s.fetchComplete fault)

/-- RECORD_WORD_COMPLETE (R9, R160). -/
def execRecordWordComplete (s : State) : Host.Outcome State Fault Refusal := .next s.recordComplete

/-- MIRROR_WRITE_COMPLETE (R18). -/
def execMirrorWriteComplete (s : State) : Host.Outcome State Fault Refusal := .next s.listComplete

/-- SNAPSHOT_WORD_WRITE (R30). -/
def execSnapshotWordWrite (s : State) : Host.Outcome State Fault Refusal := .next s.snapComplete

/-- PAGE_LOAD_READ (R31). -/
def execPageLoadRead (fault : Bool) (s : State) : Host.Outcome State Fault Refusal :=
  .next (s.loadComplete fault)

end Sys2Proof.Machine
end

