-- ==== Sys2Proof/Machine/Dispatch.lean ====
section
/-! DEFINITION. The dispatch of a command to its meaning. -/

namespace Sys2Proof.Machine

def exec (i : Instr) (s : State) : Host.Outcome State Fault Refusal :=
  match i with
  | .powerOnReset => Sys2Proof.Machine.execPowerOnReset s
  | .resetRelease page load => Sys2Proof.Machine.execResetRelease page load s
  | .hostRequest t => Sys2Proof.Machine.execHostRequest t s
  | .hostReadFault => Sys2Proof.Machine.execHostReadFault s
  | .controlPageWrite => Sys2Proof.Machine.execControlPageWrite s
  | .generationWrite => Sys2Proof.Machine.execGenerationWrite s
  | .softReset => Sys2Proof.Machine.execSoftReset s
  | .hold n => Sys2Proof.Machine.execHold n s
  | .release n => Sys2Proof.Machine.execRelease n s
  | .clear n => Sys2Proof.Machine.execClear n s
  | .stopMotor n => Sys2Proof.Machine.execStopMotor n s
  | .killTag => Sys2Proof.Machine.execKillTag s
  | .reclass => Sys2Proof.Machine.execReclass s
  | .snapshot => Sys2Proof.Machine.execSnapshot s
  | .hostFeedWrite => Sys2Proof.Machine.execHostFeedWrite s
  | .reportHeadRead => Sys2Proof.Machine.execReportHeadRead s
  | .fetchWordComplete fault => Sys2Proof.Machine.execFetchWordComplete fault s
  | .recordWordComplete => Sys2Proof.Machine.execRecordWordComplete s
  | .mirrorWriteComplete => Sys2Proof.Machine.execMirrorWriteComplete s
  | .snapshotWordWrite => Sys2Proof.Machine.execSnapshotWordWrite s
  | .pageLoadRead fault => Sys2Proof.Machine.execPageLoadRead fault s
  | .slotComplete n => Sys2Proof.Machine.execSlotComplete n s
  | .idleTimeout n => Sys2Proof.Machine.execIdleTimeout n s
  | .starveLimitReached n => Sys2Proof.Machine.execStarveLimitReached n s
  | .breakDetected n => Sys2Proof.Machine.execBreakDetected n s
  | .breakClear n => Sys2Proof.Machine.execBreakClear n s
  | .loopFault n => Sys2Proof.Machine.execLoopFault n s
  | .faultRestore n => Sys2Proof.Machine.execFaultRestore n s
  | .hostTransactionComplete => Sys2Proof.Machine.execHostTransactionComplete s
  | .senseInputLevelChange n asserted => Sys2Proof.Machine.execSenseInputLevelChange n asserted s

end Sys2Proof.Machine
end

