-- ==== Sys2Proof/Machine/Tick.lean ====
section
/-! DEFINITION. One tick of the line timebase: the counters it advances and the events that fall due on it
(log entry 5). -/

namespace Sys2Proof.Machine

/-- A slot one tick further on. -/
def Slot.tick (sl : Slot) : Slot := { sl with elapsed := sl.elapsed + 1 }

/-- The counters of a Line Unit after a tick: the run of the level read, the slot in progress, the idle timer
(R134, R137, R147). -/
def LineUnit.tick (l : LineUnit) (invert : Bool) : LineUnit :=
  if l.state = .off then l
  else
    { l with
      markRun := if l.readsMark invert then l.markRun + 1 else 0
      spaceRun := if l.readsMark invert then 0 else l.spaceRun + 1
      slot := l.slot.map Slot.tick
      idle := l.idle.map (· + 1) }

/-- A slot in progress has lasted its character time (R134). -/
def LineUnit.slotOver (l : LineUnit) (time : Nat) : Bool := l.slot.any fun sl => decide (time ≤ sl.elapsed)

/-- The space run reaches the fault limit (R152): it stands there or beyond with no fault detected, or it comes to stand
there with one still detected, as in STOPPED after a cut slot left it (log entry 40). -/
def LineUnit.faultDue (l : LineUnit) (limit : Nat) : Bool :=
  decide (0 < l.spaceRun) && decide (limit ≤ l.spaceRun) && (!l.fltDet || l.spaceRun == limit)

/-- The events due on circuit n, in the order in which they are taken (R134, R138, R147 to R153). -/
def dueOn (n : Circ) (l : LineUnit) (c : CircCfg) : List Instr :=
  (if l.state.breakable && !l.brkDet && decide (0 < l.spaceRun) && decide (c.brkLimit ≤ l.spaceRun)
    then [Instr.breakDetected n] else [])
  ++ (if l.state.faultable && l.faultDue c.fltLimit then [Instr.loopFault n] else [])
  ++ (if l.state == .broken && decide (0 < l.markRun) && decide (c.clrLimit ≤ l.markRun)
    then [Instr.breakClear n] else [])
  ++ (if l.state == .fault && decide (0 < l.markRun) && decide (c.clrLimit ≤ l.markRun)
    then [Instr.faultRestore n] else [])
  ++ (if l.slotOver c.charTime then [Instr.slotComplete n] else [])
  ++ (if c.idleTicks != 0 && l.idle.any (fun e => decide (c.idleTicks ≤ e))
    then [Instr.idleTimeout n] else [])

/-- One tick on every circuit; what falls due waits as commands, circuit by circuit (log entries 5 and 26). -/
def State.tick (s : State) : State :=
  let s := { s with circuits := Vector.ofFn fun n : Circ =>
    { s.circ n with lu := (s.circ n).lu.tick (s.ccfg n).invert } }
  { s with pending := s.pending ++ allCircs.flatMap fun n => dueOn n (s.circ n).lu (s.ccfg n) }

end Sys2Proof.Machine
end

