-- ==== Sys2Proof/Safety.lean ====
section
/-! DEFINITION. What a sound state and a safe run of the part are. -/

namespace Sys2Proof.Machine

/-- The laws of the Report Writer against the applied ring (chapter 10, R158 to R162): at most four reports are
queued; the lost count saturates; there is one attention flag for each unconsumed record, and the attention count
counts the set ones; the unconsumed records and the record in writing fit the ring, and the tail stands behind the
unconsumed records. -/
structure Writer.Lawful (w : Writer) (ring : Option Win) : Prop where
  queue : w.queue.length ≤ 4
  lost : w.lost ≤ 65535
  flags : w.flags.length = w.count
  attn : w.attn = w.flags.count true
  fits : ∀ v, ring = some v → w.count + (if w.rec_.isSome then 1 else 0) ≤ ringSlots v.code
  head : ∀ v, ring = some v → w.head < ringSlots v.code
  tail : ∀ v, ring = some v → w.tail = (w.head + w.count) % ringSlots v.code

/-- The laws of the window set (R4, R20, R23): the applied regions are aligned to their own sizes, pairwise
disjoint, and disjoint from the control page. -/
structure State.Placed (s : State) : Prop where
  aligned : ∀ r ∈ s.appliedRegions, r.base % r.size = 0
  apart : ∀ r ∈ s.appliedRegions, ∀ q ∈ s.appliedRegions, r.entry ≠ q.entry →
    overlap r.base r.size q.base q.size = false
  page : ∀ r ∈ s.appliedRegions, overlap r.base r.size s.page pageSize = false

/-- The state's Report Writer and window set are lawful. -/
structure State.Lawful (s : State) : Prop where
  writer : s.writer.Lawful s.applied.ring
  placed : s.Placed

/-- What RESET holds: no transaction at the port, nothing applied, every circuit OFF (R14, R15, R32, R157). -/
structure State.Quiescent (s : State) : Prop where
  port : s.bus.port = none
  applied : s.applied = Applied.start
  off : ∀ n, (s.circ n).lu.state = .off

/-- A sound state: the host passage has at most one request waiting or in flight, and holds a further one only while
one is in flight (R9), the host streak stays within 8 (R10), RESET holds the part still, story memory and staging are
in canonical form, and the Report Writer and the window set obey their laws. -/
structure State.Sound (s : State) : Prop where
  passage : s.hostTxn.isSome = true → s.bus.hostWaiting = none
  held : s.bus.hostHeld.isSome = true → s.hostTxn.isSome = true
  streak : s.bus.streak ≤ 8
  reset : s.bus.resetAsserted = true → s.Quiescent
  mem : Memory.wf s.mem = true
  staging : Memory.wf s.mirror.staging = true
  lawful : s.Lawful

/-- The outcome is a next state. -/
def Goes (o : Host.Outcome State Fault Refusal) : Prop := ∃ t, o = .next t

/-- A run of k steps from s is safe when every step of it answers a next state and every state on it is sound. -/
def SafeRun : Nat → State → Prop
  | 0, s => s.Sound
  | k + 1, s => s.Sound ∧ ∃ t, step s = .next t ∧ SafeRun k t

/-! ### The words of the statements -/

/-- Nothing behind the bus differs: the applied configuration, the intake, the stories, the rings, the circuits, the
notices and the Report Writer. -/
structure State.SameBlocks (s t : State) : Prop where
  applied : t.applied = s.applied
  intake : t.intake = s.intake
  stories : t.stories = s.stories
  admission : t.admission = s.admission
  feedLists : t.feedLists = s.feedLists
  index : t.index = s.index
  history : t.history = s.history
  accounts : t.accounts = s.accounts
  circuits : t.circuits = s.circuits
  pool : t.pool = s.pool
  writer : t.writer = s.writer

/-- Nothing differs but circuit n. -/
def State.OnlyCirc (s t : State) (n : Circ) : Prop := t = s.setCirc n (t.circ n)

/-- The Control Mirror differs at most in its write list and in the request it has placed. -/
def State.SameMirror (s t : State) : Prop :=
  { t.mirror with writeList := [], req := none } = { s.mirror with writeList := [], req := none }

/-- The host write x of the control page word at the page offset off is in flight, with some byte enabled, and staging
is in canonical form. -/
structure State.PageWriteAt (s : State) (x : Txn) (off : Nat) : Prop where
  port : s.hostTxn = some x
  write : x.write = true
  lanes : x.be ≠ 0
  word : Txn.word x = s.page + off
  inPage : off < pageSize
  staging : Memory.wf s.mirror.staging = true

/-- The host write x of feed f's window word at ring offset off is in flight, with some byte enabled. -/
structure State.FeedWriteAt (s : State) (x : Txn) (f : Feed) (off : Nat) : Prop where
  port : s.hostTxn = some x
  write : x.write = true
  lanes : x.be ≠ 0
  cls : s.classify (Txn.word x) = .feed f off

/-- The state in which memory has completed the host transaction x, before anything is handed on (R2). -/
def State.landed (s : State) (x : Txn) : State :=
  { s with mem := memApply s.mem x, bus := { s.bus with port := none, hostReply := some (s.reply x) } }

/-- The state with another staging copy. -/
def State.withStaging (s : State) (m : Memory) : State := { s with mirror := { s.mirror with staging := m } }

/-- The place of a requester in the cyclic order of R11. -/
def Internal.place : Internal → Nat
  | .fetcher n => n.1
  | .writer => 8
  | .mirror => 9

/-- How many places after the pointer p a requester stands: 0 for the next one, 9 for the pointer itself (R11). -/
def Internal.turn (p i : Internal) : Nat := (i.place + 9 - p.place) % 10

/-- A queue in order of rank (R89). -/
def State.Ranked (s : State) (q : List Item) : Prop := q.Pairwise fun i j => s.rank i ≤ s.rank j

/-! ### The distant printer (R111 to R113, R170) -/

/-- What a 5-unit code does at a printer. -/
inductive Glyph
  /-- A character of the plane the printer stands in; none when it does not know its plane. -/
  | printed (p : Option Plane) (c : Code5)
  | space
  | cr
  | lf
  /-- A shift or a fill. -/
  | silent
deriving DecidableEq, Repr

/-- A printer in plane p takes a code: its new plane and what it does. With unshift-on-space a space after figures
returns it to letters. -/
def printerTakes (usos : Bool) (p : Option Plane) (c : Code5) : Option Plane × Glyph :=
  if c = codeLtr then (some .ltr, .silent)
  else if c = codeFig then (some .fig, .silent)
  else if c = codeNat then (some .nat, .silent)
  else if c = codeSpace then (if usos && p == some .fig then some .ltr else p, .space)
  else if c = codeCr then (p, .cr)
  else if c = codeLf then (p, .lf)
  else (p, .printed p c)

/-- What a printer makes of a run of codes, its silent codes left out. -/
def printerMakes (usos : Bool) : Option Plane → List Code5 → List Glyph
  | _, [] => []
  | p, c :: cs =>
    let r := printerTakes usos p c
    if r.2 = .silent then printerMakes usos r.1 cs else r.2 :: printerMakes usos r.1 cs

/-- What the placed characters are meant to print: fills print nothing. -/
def meant : List Placed → List Glyph
  | [] => []
  | { sym := .print c, mark := _ } :: ps => .printed (some c.plane) c.code :: meant ps
  | { sym := .space, mark := _ } :: ps => .space :: meant ps
  | { sym := .cr, mark := _ } :: ps => .cr :: meant ps
  | { sym := .lf, mark := _ } :: ps => .lf :: meant ps
  | { sym := .fill, mark := _ } :: ps => meant ps

/-- The codes the Sender hands in its next k requests while its plan lasts. -/
def handed (cfg : CircCfg) : Nat → Sender → List Code5
  | 0, _ => []
  | k + 1, d =>
    match d.handFirst cfg with
    | none => []
    | some (d', c, _, _) => c :: handed cfg k d'

/-- The column after the placed characters: one more for each character and space, 0 after a newline (R114, R116). -/
def columnAfter : Nat → List Placed → Nat
  | c, [] => c
  | c, { sym := .print _, mark := _ } :: ps => columnAfter (c + 1) ps
  | c, { sym := .space, mark := _ } :: ps => columnAfter (c + 1) ps
  | _, { sym := .cr, mark := _ } :: ps => columnAfter 0 ps
  | c, { sym := .lf, mark := _ } :: ps => columnAfter c ps
  | c, { sym := .fill, mark := _ } :: ps => columnAfter c ps

/-- The printing characters among the placed ones. -/
def printsOf : List Placed → List PChar
  | [] => []
  | { sym := .print c, mark := _ } :: ps => c :: printsOf ps
  | { sym := .space, mark := _ } :: ps => printsOf ps
  | { sym := .cr, mark := _ } :: ps => printsOf ps
  | { sym := .lf, mark := _ } :: ps => printsOf ps
  | { sym := .fill, mark := _ } :: ps => printsOf ps

end Sys2Proof.Machine
end

