-- ==== Sys2Proof/Certificates/Slice0/Obligations.lean ====
section
/-! DEFINITION. The statements for the provers. -/

open Sys2Proof Sys2Proof.Machine

/-! ### The whole part -/

/-- A step with a command at the front of the queue is that command on the state with the queue's rest. -/
def Obligations.StepRunsFront : Prop :=
  ∀ (c : Instr) (q : List Instr) (s : State), step { s with pending := c :: q } = exec c { s with pending := q }

/-- A step with no command waiting is one tick of the line timebase (log entry 5): every circuit that is not OFF counts
its run, its slot and its idle timer, without a bound (log entry 27), nothing else of the state moves, and what falls due
joins the queue, circuit by circuit (log entry 26): a break, a loop fault, a clear, a restore, a slot's end and an idle
timeout at the limits of R134, R138, R147, R148, R150, R152 and R153. Three of these tests are the model's choices: each
compares with at least, not with equal (log entry 27); a restore is due in FAULT wherever the mark run stands at the
limit or beyond (log entry 21); and while a fault is detected, a loop fault is due only where the space run comes to stand at the
limit, so that the run a cut slot left makes none in STOPPED and a fresh one does (log entry 40).
SENSE_INPUT_LEVEL_CHANGE restarts the runs from 0 and touches nothing else; the
level the pin has already changes nothing (R147). -/
def Obligations.TimebaseAndSense : Prop :=
  (∀ s : State, s.pending = [] → ∃ t, step s = .next t ∧
    t = { s with circuits := t.circuits, pending := t.pending } ∧
    t.pending = (allCircs.flatMap fun n => dueOn n (t.circ n).lu (s.ccfg n)) ∧
    ∀ n, t.circ n = { s.circ n with
      lu :=
        if (s.circ n).lu.state = .off then (s.circ n).lu
        else if s.readsMarkOn n then
          { (s.circ n).lu with
            markRun := (s.circ n).lu.markRun + 1, spaceRun := 0
            slot := (s.circ n).lu.slot.map fun x => { x with elapsed := x.elapsed + 1 }
            idle := (s.circ n).lu.idle.map fun e => e + 1 }
        else
          { (s.circ n).lu with
            markRun := 0, spaceRun := (s.circ n).lu.spaceRun + 1
            slot := (s.circ n).lu.slot.map fun x => { x with elapsed := x.elapsed + 1 }
            idle := (s.circ n).lu.idle.map fun e => e + 1 } }) ∧
  (∀ (n : Circ) (l : LineUnit) (c : CircCfg),
    (Instr.breakDetected n ∈ dueOn n l c ↔ (l.state = .lead ∨ l.state = .running ∨ l.state = .held) ∧
      l.brkDet = false ∧ 0 < l.spaceRun ∧ c.brkLimit ≤ l.spaceRun) ∧
    (Instr.loopFault n ∈ dueOn n l c ↔ l.state ≠ .off ∧ l.state ≠ .fault ∧ 0 < l.spaceRun ∧
      c.fltLimit ≤ l.spaceRun ∧ (l.fltDet = false ∨ l.spaceRun = c.fltLimit)) ∧
    (Instr.breakClear n ∈ dueOn n l c ↔ l.state = .broken ∧ 0 < l.markRun ∧ c.clrLimit ≤ l.markRun) ∧
    (Instr.faultRestore n ∈ dueOn n l c ↔ l.state = .fault ∧ 0 < l.markRun ∧ c.clrLimit ≤ l.markRun) ∧
    (Instr.slotComplete n ∈ dueOn n l c ↔ ∃ sl, l.slot = some sl ∧ c.charTime ≤ sl.elapsed) ∧
    (Instr.idleTimeout n ∈ dueOn n l c ↔ c.idleTicks ≠ 0 ∧ ∃ e, l.idle = some e ∧ c.idleTicks ≤ e)) ∧
  ∀ (s : State) (n : Circ) (b : Bool),
    ((s.circ n).lu.sense = b → exec (.senseInputLevelChange n b) s = .next s) ∧
    ((s.circ n).lu.sense ≠ b → ∃ t, exec (.senseInputLevelChange n b) s = .next t ∧ s.OnlyCirc t n ∧
      t.circ n = { s.circ n with lu := { (s.circ n).lu with sense := b, spaceRun := 0, markRun := 0 } })

/-- Every step from a sound state answers a sound state: the bus law of R10 and R14, the canonical memories, the laws
of the Report Writer (R160) and of the window set (R4, R23). -/
def Obligations.StepKeepsSound : Prop :=
  ∀ s t : State, s.Sound → step s = .next t → t.Sound

/-- The state after reset is sound. -/
def Obligations.ResetIsSound : Prop := State.reset.Sound

/-- Every run from a sound state is safe, however long: each step answers a next state, and every state is sound. -/
def Obligations.SoundRunsAreSafe : Prop := ∀ (k : Nat) (s : State), s.Sound → SafeRun k s

/-- No command touches the queue of waiting commands. -/
def Obligations.CommandsLeaveTheQueue : Prop :=
  ∀ (c : Instr) (s t : State), exec c s = .next t → t.pending = s.pending

/-- Whatever the command, a byte of story memory outside the enabled lanes of a write in flight at the memory port
reads as before (R1, R2). -/
def Obligations.OnlyThePortWritesMemory : Prop :=
  ∀ (c : Instr) (s t : State) (a : Nat), Memory.wf s.mem = true → exec c s = .next t →
    (∀ p, s.bus.port = some p → p.txn.write = true →
      ∀ i < 4, p.txn.be.getLsbD i = true → a ≠ Txn.word p.txn + i) →
    memRead t.mem a = memRead s.mem a

/-- Whatever the command but POWER_ON_RESET, staging changes only when a host write of the page or a page-load read
completes (R8, R17, R31). -/
def Obligations.OnlyPageTrafficStages : Prop :=
  ∀ (c : Instr) (s t : State), Memory.wf s.mirror.staging = true → exec c s = .next t → c ≠ .powerOnReset →
    (∀ x off, ¬ s.PageWriteAt x off) →
    (∀ p, s.bus.port = some p → p.by_ ≠ .mirror .load) →
    t.mirror.staging = s.mirror.staging

/-! ### RESET and the straps (R13 to R15) -/

/-- POWER_ON_RESET sets every block to its values after power-on reset; the host's request stays presented, and the
sense pins, which are inputs, keep their levels. The model's choices in it: the start values the spec does not give (log
entry 2), and that a request held on the host side is no longer presented (log entry 22). -/
def Obligations.PowerOnResetStarts : Prop :=
  ∀ s : State, ∃ t, exec .powerOnReset s = .next t ∧
    t.bus = { Bus.start with hostWaiting := s.stillPresented } ∧
    t.mirror = Mirror.start ∧ t.applied = Applied.start ∧ t.writer = Writer.start ∧
    (∀ f, t.ctx f = FeedCtx.start ∧ t.acct f = Account.start ∧ t.flist f = []) ∧
    (∀ g, t.story g = none) ∧ t.admission = [] ∧ t.index = [] ∧ t.history = [] ∧ (∀ i, t.notice i = none) ∧
    (∀ n, t.circ n = { Circuit.start with lu := { LineUnit.start with sense := (s.circ n).lu.sense } }) ∧
    t.pending = s.pending

/-- A write that RESET ends in flight leaves each enabled byte at the value written or at its earlier one, and every
other byte of story memory as it was (R14). -/
def Obligations.ResetMidWrite : Prop :=
  ∀ (s t : State) (a : Nat), Memory.wf s.mem = true → exec .powerOnReset s = .next t →
    memRead t.mem a = memRead s.mem a ∨
      ∃ p i, s.bus.port = some p ∧ p.txn.write = true ∧ i < 4 ∧ p.txn.be.getLsbD i = true ∧
        a = Txn.word p.txn + i ∧ memRead t.mem a = wordByte p.txn.data i

/-- RESET_RELEASE latches the straps. With LOAD high it begins the page load (R31); with LOAD low the start-up
acknowledgement word is listed, applied generation 0, status 0 and index FFh (R32), and takes the port at once when nothing
else waits for it. A request still presented is granted first (R14). Released already, the pins have no effect (R13). -/
def Obligations.ReleaseLatchesStraps : Prop :=
  ∀ (s : State) (p : BitVec 2) (l : Bool),
    (s.bus.resetAsserted = false → exec (.resetRelease p l) s = .next s) ∧
    (s.bus.resetAsserted = true → ∃ t, exec (.resetRelease p l) s = .next t ∧
      t.bus.page = p ∧ t.bus.loadStrap = l ∧ t.bus.resetAsserted = false ∧ s.SameBlocks t ∧ t.mem = s.mem ∧
      t.mirror.staging = s.mirror.staging ∧
      t.mirror.load = (if l then some { next := 0, nonzero := [] } else s.mirror.load) ∧
      (∀ x, s.bus.hostWaiting = some x → s.bus.port = none → s.bus.streak = 0 →
        t.bus.port = some { by_ := .host, txn := x, orphan := false } ∧ t.bus.hostWaiting = none) ∧
      (l = false → s.mirror.writeList = [] → s.mirror.req = none → s.bus.port = none → s.bus.streak = 0 →
        (∀ x, s.bus.hostWaiting = some x →
          t.mirror.writeList = [{ off := 0, be := 0b1110, data := 0xFF000000 }] ∧ t.mirror.req = some .list) ∧
        (s.bus.hostWaiting = none → s.bus.hostHeld = none → s.writer.rec_ = none →
          (∀ n, (s.circ n).ftc.fetch = none) →
          t.mirror.writeList = [] ∧ t.bus.port = some
            { by_ := .mirror .list, txn := writeTxn (pageBase p) 0b1110 0xFF000000, orphan := false })))

/-! ### Host transactions and the arbiter (R2, R3, R5, R10, R11) -/

/-- HOST_REQUEST: the host passage has at most one request waiting or in flight (R9). A presented transaction with the
port free and the streak below 8 is granted at once; with the port busy for an internal requester, or under RESET, it
waits; while the host's last transaction is in flight it is held on the host side; and while one waits or is held a
further one changes nothing (those last two, the model's choice, log entry 22). Nothing else moves. -/
def Obligations.HostRequestIsAccepted : Prop :=
  ∀ (s : State) (x : Txn),
    (s.bus.hostWaiting ≠ none ∨ s.bus.hostHeld ≠ none → exec (.hostRequest x) s = .next s) ∧
    (s.bus.hostWaiting = none → s.bus.hostHeld = none → s.bus.resetAsserted = false → s.bus.port = none →
      s.bus.streak < 8 →
      ∃ t, exec (.hostRequest x) s = .next t ∧
        t.bus.port = some { by_ := .host, txn := x, orphan := false } ∧ t.bus.hostWaiting = none ∧
        t.bus.hostHeld = none ∧ s.SameBlocks t ∧ s.SameMirror t ∧ t.mem = s.mem) ∧
    (s.bus.hostWaiting = none → s.bus.hostHeld = none → s.hostTxn = none →
      s.bus.resetAsserted = true ∨ s.bus.port.isSome = true →
      ∃ t, exec (.hostRequest x) s = .next t ∧ t.bus = { s.bus with hostWaiting := some x } ∧
        s.SameBlocks t ∧ s.SameMirror t ∧ t.mem = s.mem) ∧
    (∀ y, s.bus.hostWaiting = none → s.bus.hostHeld = none → s.hostTxn = some y →
      ∃ t, exec (.hostRequest x) s = .next t ∧ t.bus = { s.bus with hostHeld := some x } ∧
        s.SameBlocks t ∧ s.SameMirror t ∧ t.mem = s.mem)

/-- HOST_READ_FAULT: the host is answered a bus error and four zero lanes, and no block is told (R3). -/
def Obligations.FaultedHostRead : Prop :=
  ∀ (s : State) (x : Txn), s.hostTxn = some x → x.write = false →
    ∃ t, exec .hostReadFault s = .next t ∧ t.bus.hostReply = some { data := 0, busError := true } ∧
      s.SameBlocks t ∧ s.SameMirror t ∧ t.mem = s.mem

/-- The choice between the host and the internal requesters, by the host streak (R10), and the internal requester the
round robin names (R11): the port is then held by its next word. That
the part's own reads drive all four byte enables is the model's choice (log entry 50). -/
def Obligations.ArbiterFollowsTheStreak : Prop :=
  ∀ s : State, s.bus.resetAsserted = false → s.bus.port = none →
    (s.bus.hostWaiting = none → (∀ i, s.waits i = false) → s.grant = s) ∧
    (∀ x, s.bus.hostWaiting = some x → (∀ i, s.waits i = false) →
      s.grant.bus.port = some { by_ := .host, txn := x, orphan := false } ∧ s.grant.bus.streak = 0) ∧
    (∀ x i, s.bus.hostWaiting = some x → s.waits i = true → s.bus.streak < 8 →
      s.grant.bus.port = some { by_ := .host, txn := x, orphan := false } ∧
        s.grant.bus.streak = s.bus.streak + 1 ∧ s.grant.bus.rr = s.bus.rr) ∧
    (∀ i, s.waits i = true → s.bus.hostWaiting = none ∨ 8 ≤ s.bus.streak →
      s.grant.bus.hostWaiting = s.bus.hostWaiting ∧ s.grant.bus.streak = 0 ∧ s.waits s.grant.bus.rr = true ∧
        Internal.turn s.bus.rr s.grant.bus.rr ≤ Internal.turn s.bus.rr i ∧
        (∀ n f, s.grant.bus.rr = .fetcher n → (s.circ n).ftc.fetch = some f →
          s.grant.bus.port = some
            { by_ := .fetcher n, txn := readTxn (f.base + f.off + f.bytes.length), orphan := false }) ∧
        (∀ j w, s.grant.bus.rr = .writer → s.writer.rec_ = some j → s.applied.ring = some w →
          s.grant.bus.port = some
            { by_ := .writer, txn := writeTxn (w.base + 16 * j.slot + 4 * j.done) 0xF (j.words.getD j.done 0),
              orphan := false }) ∧
        (∀ w ws, s.grant.bus.rr = .mirror → s.mirror.req = some .list → s.mirror.writeList = w :: ws →
          s.grant.bus.port = some
            { by_ := .mirror .list, txn := writeTxn (s.page + w.off) w.be w.data, orphan := false } ∧
          s.grant.mirror.writeList = ws) ∧
        (∀ j, s.grant.bus.rr = .mirror → s.mirror.req = some .snap → s.mirror.snap = some j →
          s.grant.bus.port = some
            { by_ := .mirror .snap, txn := writeTxn (s.page + snapOffset j.next) 0xF (j.words.getD j.next 0),
              orphan := false }) ∧
        (∀ j, s.grant.bus.rr = .mirror → s.mirror.req = some .load → s.mirror.load = some j →
          s.grant.bus.port = some
            { by_ := .mirror .load, txn := readTxn (s.page + j.next), orphan := false }))

/-- With the regions disjoint, an address has the class of the one region that holds it (R5). -/
def Obligations.ClassesFollowRegions : Prop :=
  ∀ (s : State) (a : Nat), s.Placed →
    (s.page ≤ a → a < s.page + pageSize → s.classify a = .control (a - s.page)) ∧
    (∀ f w, (s.fcfg f).win = some w → w.base ≤ a → a < w.base + w.feedSize →
      s.classify a = .feed f (a - w.base)) ∧
    (∀ w, s.applied.ring = some w → w.base ≤ a → a < w.base + w.ringBytes →
      s.classify a = .report ((a - w.base) / 16) ((a - w.base) % 16 / 4)) ∧
    (¬(s.page ≤ a ∧ a < s.page + pageSize) →
      (∀ f w, (s.fcfg f).win = some w → ¬(w.base ≤ a ∧ a < w.base + w.feedSize)) →
      (∀ w, s.applied.ring = some w → ¬(w.base ≤ a ∧ a < w.base + w.ringBytes)) → s.classify a = .other)

/-- HOST_TRANSACTION_COMPLETE: a transaction that hands nothing on reaches memory and is answered, and no block is
told (R2, R6, R161). The data answered for a write, four zero lanes, is the model's choice (log entry 34). -/
def Obligations.PlainTransactionCompletes : Prop :=
  ∀ (s : State) (x : Txn), s.hostTxn = some x →
    (x.write = true ∧ (x.be = 0 ∨ s.classify (Txn.word x) = .other ∨
        ∃ j w, s.classify (Txn.word x) = .report j w) ∨
      x.write = false ∧ ((∀ j w, s.classify (Txn.word x) ≠ .report j w) ∨
        ∃ j w, s.classify (Txn.word x) = .report j w ∧
          (w ≠ 0 ∨ j ≠ s.writer.head ∨ s.writer.count = 0))) →
    ∃ t, exec .hostTransactionComplete s = .next t ∧ t.mem = memApply s.mem x ∧
      t.bus.hostReply = some
        { data := if x.write then 0 else memReadWord s.mem (Txn.word x), busError := false } ∧
      s.SameBlocks t ∧ s.SameMirror t

/-! ### The control page (R17 to R34) -/

/-- CONTROL_PAGE_WRITE, whatever the write carries: staging takes the enabled bytes and no other, memory too, and the
host is answered (R17; the data answered for a write, the model's choice, log entry 34). -/
def Obligations.PageWriteStages : Prop :=
  ∀ (s : State) (x : Txn) (off : Nat), s.PageWriteAt x off →
    ∃ t, exec .controlPageWrite s = .next t ∧ t.mem = memApply s.mem x ∧
      t.bus.hostReply = some { data := 0, busError := false } ∧
      ∀ a, memRead t.mirror.staging a =
        if off ≤ a ∧ a < off + 4 ∧ x.be.getLsbD (a - off) = true then wordByte x.data (a - off)
        else memRead s.mirror.staging a

/-- CONTROL_PAGE_WRITE beyond the request bytes, or of the generation word with the generation byte left as last seen,
changes no block, and of the Mirror only staging: the applied configuration waits for a generation (R17, R19). -/
def Obligations.StagedBytesWait : Prop :=
  ∀ (s : State) (x : Txn) (off : Nat), s.PageWriteAt x off →
    0x14 ≤ off ∨ off = 0 ∧
      staged8 (memWriteLanes s.mirror.staging 0 x.data (lanesOf x.be)) 0 = s.mirror.genSeen →
    ∃ t, exec .controlPageWrite s = .next t ∧ s.SameBlocks t ∧
      (s.withStaging (memWriteLanes s.mirror.staging off x.data (lanesOf x.be))).SameMirror t

/-- GENERATION_WRITE: the generation written is judged by the staging the write left. With its regions disjoint the apply
runs on that staging; with an overlap the generation is seen and refused: status 3 and the lowest entry are listed and
APPLY_REFUSED is posted with both, and the applied configuration, the apply state and the pending set stay (R19, R20,
R21). -/
def Obligations.GenerationIsJudged : Prop :=
  ∀ (s : State) (x : Txn), s.PageWriteAt x 0 → x.be.getLsbD 0 = true →
    wordByte x.data 0 ≠ s.mirror.genSeen → s.mirror.load = none →
    let s' := s.withStaging (memWriteLanes s.mirror.staging 0 x.data (lanesOf x.be))
    (s'.refusedEntry = none → exec .generationWrite s = .next
      (State.applyValid
        { s.landed x with mirror := { s'.mirror with genSeen := wordByte x.data 0 } }
        (wordByte x.data 0)).settleBus) ∧
    (∀ e, s'.refusedEntry = some e →
      let r : State := { s.landed x with mirror := { s'.mirror with genSeen := wordByte x.data 0 } }
      let t := (r.applyRefused (wordByte x.data 0) e).settleBus
      exec .generationWrite s = .next t ∧
        r.applyRefused (wordByte x.data 0) e = (r.listBytes 0 0b1100 (wordOf 0 0 3 (byteN e))).post
          { kind := .applyRefused, valA := (wordByte x.data 0).setWidth 32, valB := BitVec.ofNat 16 e } ∧
        t.mirror.genSeen = wordByte x.data 0 ∧
        t.mirror.genValid = s.mirror.genValid ∧ t.applied = s.applied ∧
        t.mirror.applyPending = s.mirror.applyPending ∧ t.mirror.pendWin = s.mirror.pendWin ∧
        t.mirror.pendRing = s.mirror.pendRing ∧ t.mirror.pendCirc = s.mirror.pendCirc ∧
        t.intake = s.intake ∧ t.stories = s.stories ∧ t.accounts = s.accounts ∧ t.circuits = s.circuits)

/-- Validation: a generation passes exactly when the staged regions are disjoint from each other and from the control
page, and a refused one names the lowest-numbered entry that overlaps another region (R20). -/
def Obligations.ValidationNamesTheLowest : Prop :=
  ∀ s : State,
    (s.refusedEntry = none ↔ ∀ r ∈ stagedRegions s.mirror.staging, overlap r.base r.size s.page pageSize = false ∧
      ∀ q ∈ stagedRegions s.mirror.staging, q.entry ≠ r.entry → overlap r.base r.size q.base q.size = false) ∧
    (∀ e, s.refusedEntry = some e →
      (∃ r ∈ stagedRegions s.mirror.staging, r.entry = e ∧
        r.clashes s.page (stagedRegions s.mirror.staging) = true) ∧
      ∀ r ∈ stagedRegions s.mirror.staging, r.entry < e →
        r.clashes s.page (stagedRegions s.mirror.staging) = false)

/-- The taking of the parts of an apply. Each conditional part is marked pending exactly when its staged value differs,
still vacated if it was (R21, R27); General, route matrix and levels are taken at once (R21, R85), then each conditional
part whose condition holds (R22). A window or ring part whose region is free is taken, its feed context and account afresh
(R24); one in the way of another region vacates its entry (R23); an unchanged one is dropped. A circuit part replaces the
entry, with the effects of turning the circuit on or off (R25). The apply completes when nothing is pending, with its
acknowledgement and APPLY_DONE (R26); else status 1 is listed. A refused generation lists status 3 and the entry, and
posts APPLY_REFUSED (R20). The model's choices in it: the order of the parts (log entry 8); that vacating a part
re-examines no other (log entry 9); the comparison of the runs with a part just taken, partTaken (log entry 21); that no
part of a RUNNING circuit is taken at the start (log entry 41); and the output phase of a circuit turned on (log entry
2). -/
def Obligations.ApplyPartsAreTaken : Prop :=
  (∀ (s : State) (g : Byte),
    let s1 := State.markParts { s with mirror := { s.mirror with genValid := g, applyPending := true } }
    let u := ((allFeeds.foldl State.takeLevels s1.takeGeneral.takeRoute).tryParts).applyCheck
    s.applyValid g = if u.mirror.applyPending then u.listStatus 1 0xFF else u) ∧
  (∀ s : State, s.tryParts = allCircs.foldl State.tryCirc (allFeeds.foldl State.tryWin s).tryRing) ∧
  (∀ s : State,
    let m := s.mirror.staging
    (∀ f, vget s.markParts.mirror.pendWin f =
      if stagedWin m f = (s.fcfg f).win then .clear
      else if vget s.mirror.pendWin f = .vacated then .vacated else .waiting) ∧
    s.markParts.mirror.pendRing =
      (if stagedRing m = s.applied.ring then .clear
       else if s.mirror.pendRing = .vacated then .vacated else .waiting) ∧
    (∀ n, vget s.markParts.mirror.pendCirc n = true ↔ stagedCirc m n ≠ s.ccfg n) ∧
    s.takeGeneral = { s with applied := { s.applied with
      attnEnable := stagedFlag m 0x14, attnMask := staged32 m 0x18, prefix_ := stagedPrefix m } } ∧
    s.takeRoute = { s with applied := { s.applied with route := stagedRoute m } } ∧
    ∀ f, ((s.takeLevels f).fcfg f = (s.fcfg f).withLevels (stagedLevels m f)) ∧
      (∀ g, g ≠ f → (s.takeLevels f).fcfg g = s.fcfg g) ∧
      (stagedLevels m f = (s.fcfg f).levels → s.takeLevels f = s) ∧
      (stagedLevels m f ≠ (s.fcfg f).levels → (s.fcfg f).win ≠ none →
        ((s.takeLevels f).acct f).blocked = none)) ∧
  (∀ (s : State) (f : Feed),
    let w := stagedWin s.mirror.staging f
    let t := s.tryWin f
    (vget s.mirror.pendWin f = .clear ∨ s.winCond f = false → t = s) ∧
    (vget s.mirror.pendWin f ≠ .clear → s.winCond f = true →
      (w = (s.fcfg f).win → t.fcfg f = s.fcfg f ∧ t.ctx f = s.ctx f ∧ t.acct f = s.acct f ∧
        vget t.mirror.pendWin f = .clear) ∧
      (w ≠ (s.fcfg f).win → s.winBlocked f w = true → t = (s.setWindow f none).setMarkWin f .vacated) ∧
      (w ≠ (s.fcfg f).win → s.winBlocked f w = false →
        t.fcfg f = { s.fcfg f with win := w } ∧ t.ctx f = FeedCtx.start ∧ t.acct f = Account.start ∧
        vget t.mirror.pendWin f = .clear ∧
        ((∀ g, g ≠ f → vget s.mirror.pendWin g ≠ .vacated) → s.mirror.pendRing ≠ .vacated →
          ∀ g, g ≠ f → t.fcfg g = s.fcfg g ∧ t.ctx g = s.ctx g)))) ∧
  (∀ s : State,
    let w := stagedRing s.mirror.staging
    let t := s.tryRing
    (s.mirror.pendRing = .clear ∨ 0 < s.writer.count ∨ s.writer.rec_ ≠ none → t = s) ∧
    (s.mirror.pendRing ≠ .clear → s.writer.count = 0 → s.writer.rec_ = none →
      (w = s.applied.ring → t.applied.ring = w ∧ t.mirror.pendRing = .clear) ∧
      (w ≠ s.applied.ring → s.ringBlocked w = false → t.applied.ring = w ∧ t.mirror.pendRing = .clear) ∧
      (w ≠ s.applied.ring → s.ringBlocked w = true → t.applied.ring = none ∧ t.mirror.pendRing = .vacated ∧
        t.writer = { s.writer with
          queue := [], head := 0, tail := 0, count := 0, flags := [], attn := 0
          lost := s.writer.queue.foldl (fun k _ => satInc 65535 k) s.writer.lost }))) ∧
  (∀ (s : State) (n : Circ),
    let c := stagedCirc s.mirror.staging n
    let e := s.examineCirc n
    (vget s.mirror.pendCirc n = false ∨ (s.circ n).lu.state = .lead ∨ (s.circ n).lu.state = .running ∨
        (s.circ n).lu.state = .broken → s.tryCirc n = s) ∧
    (vget s.mirror.pendCirc n = true → (s.circ n).lu.state = .off ∨ (s.circ n).lu.state = .stopped ∨
        (s.circ n).lu.state = .held ∨ (s.circ n).lu.state = .fault →
      s.tryCirc n = (s.partTaken n e).sched n) ∧
    e.ccfg n = c ∧ vget e.mirror.pendCirc n = false ∧ (∀ m, m ≠ n → e.circ m = s.circ m ∧ e.ccfg m = s.ccfg m) ∧
    (c = s.ccfg n → e.circ n = s.circ n) ∧
    ((s.ccfg n).enable = false → c.enable = true →
      (e.circ n).lu = { LineUnit.start with state := .stopped, sense := (s.circ n).lu.sense } ∧
      (e.circ n).snd = Sender.start ∧ (e.circ n).sch = (s.circ n).sch ∧ (e.circ n).ftc.look = []) ∧
    ((s.ccfg n).enable = true → c.enable = false →
      (e.circ n).lu = { LineUnit.start with sense := (s.circ n).lu.sense } ∧
      (e.circ n).sch.queue = [] ∧ (e.circ n).sch.item = none ∧ (e.circ n).sch.point = .none ∧
      (e.circ n).sch.starve = 0 ∧
      ∀ t st d, (s.circ n).sch.item = some (.story t) ∨ Item.story t ∈ (s.circ n).sch.queue →
        e.story t = some st → st.delivery n = some d → d.state = .abandoned)) ∧
  (∀ s : State,
    (s.mirror.applyPending = true → (∀ f, vget s.mirror.pendWin f = .clear) → s.mirror.pendRing = .clear →
      (∀ n, vget s.mirror.pendCirc n = false) →
      s.applyCheck.mirror = { (s.listAck s.mirror.genValid 2 0xFF).mirror with applyPending := false } ∧
      s.applyCheck.writer = (s.post { kind := .applyDone, valA := s.mirror.genValid.setWidth 32,
                                      valB := s.mirror.genSeen.setWidth 16 }).writer ∧
      (s.setWriter s.applyCheck.writer).SameBlocks s.applyCheck) ∧
    (s.mirror.applyPending = false ∨ (∃ f, vget s.mirror.pendWin f ≠ .clear) ∨ s.mirror.pendRing ≠ .clear ∨
      (∃ n, vget s.mirror.pendCirc n = true) → s.applyCheck = s)) ∧
  ∀ (s : State) (g : Byte) (e : Nat),
    (s.applyRefused g e).mirror = (s.listStatus 3 e).mirror ∧
    (s.applyRefused g e).writer = (s.post { kind := .applyRefused, valA := g.setWidth 32,
                                            valB := BitVec.ofNat 16 e }).writer ∧
    (s.setWriter (s.applyRefused g e).writer).SameBlocks (s.applyRefused g e)

/-- SOFT_RESET: every block but the Mirror is in its state after a soft reset, the configuration and the Mirror's
generations and pending set stay, and RESET_DONE is the first report (R16, R33, R34). With no apply pending that is all;
with one pending, the parts whose condition now holds are then examined, in the order of O21, and the apply completes if
none is left (R22, R26, R33). The output phase of an empty Sender and the next fetch offset 0 are the model's choices (log
entries 2 and 39). A CONTROL_PAGE_WRITE of the soft-reset byte with a value above 1 is only written back as 0, and with 0
it does nothing (R33). -/
def Obligations.SoftResetEmpties : Prop :=
  (∀ (s : State) (x : Txn), s.PageWriteAt x 4 → x.be.getLsbD 0 = true →
    let u := (s.landed x).stageWrite 4 x.be x.data
    (2 ≤ (wordByte x.data 0).toNat →
      exec .controlPageWrite s = .next (State.settleBus (u.listBytes 4 0b0001 0))) ∧
    (wordByte x.data 0 = 0 → exec .controlPageWrite s = .next u.settleBus)) ∧
  ∀ (s : State) (x : Txn), s.PageWriteAt x 4 → x.be.getLsbD 0 = true → wordByte x.data 0 = 1 →
    let emptied (t : State) : Prop :=
      t.applied = s.applied ∧ t.bus.page = s.bus.page ∧
      t.mirror.genSeen = s.mirror.genSeen ∧ t.mirror.genValid = s.mirror.genValid ∧
      t.mirror.applyPending = s.mirror.applyPending ∧ t.mirror.pendWin = s.mirror.pendWin ∧
      t.mirror.pendRing = s.mirror.pendRing ∧ t.mirror.pendCirc = s.mirror.pendCirc ∧
      t.mirror.snapCount = s.mirror.snapCount ∧ t.mem = memApply s.mem x ∧
      (∀ f, t.ctx f = FeedCtx.start ∧ t.acct f = Account.start ∧ t.flist f = []) ∧
      (∀ g, t.story g = none) ∧ t.admission = [] ∧ t.index = [] ∧ t.history = [] ∧ (∀ i, t.notice i = none) ∧
      (∀ n, (t.circ n).sch = Sched.start ∧ (t.circ n).snd = Sender.start ∧ (t.circ n).ftc = Fetcher.start ∧
        (t.circ n).lu = { LineUnit.start with
          state := if (s.circ n).lu.state = .off then .off else .stopped, sense := (s.circ n).lu.sense }) ∧
      (s.applied.ring = none → t.writer = { Writer.start with lost := 1 } ∧ t.mirror.resetWait = false) ∧
      (∀ w, s.applied.ring = some w → t.mirror.resetWait = true ∧ t.writer = { Writer.start with
        rec_ := some
          { slot := 0
            words := composeRecord (resetReport s.liveCount s.queuedCount) (s.flagged .resetDone) 0
            flag := s.flagged .resetDone, done := 0, isReset := true } })
    (s.mirror.applyPending = false → ∃ t, exec .softReset s = .next t ∧ emptied t) ∧
    (s.mirror.applyPending = true → ∃ r, emptied r ∧
      exec .softReset s = .next r.tryParts.applyCheck.settleBus)

/-- HOLD, RELEASE, CLEAR and STOP_MOTOR: a host write of a circuit request byte is landed and staged, the byte's
write-back is listed, and the request acts on that circuit (R28; that the write-back is listed before the request acts,
the model's deduction, log entry 8). A write that carries several request bytes acts on them in ascending offset, each
byte by its value: 0 is nothing, and any other value but 1 to 4 is only written back. -/
def Obligations.CircuitRequestsAct : Prop :=
  (∀ (s : State) (x : Txn) (n : Circ), s.PageWriteAt x ((0x0C + n.1) / 4 * 4) →
    x.be = 1#4 <<< ((0x0C + n.1) % 4) →
    (wordByte x.data ((0x0C + n.1) % 4) = 1 → exec (.hold n) s = .next
      (State.holdReq (((s.landed x).stageWrite ((0x0C + n.1) / 4 * 4) x.be x.data).listZero (0x0C + n.1))
        n).settleBus) ∧
    (wordByte x.data ((0x0C + n.1) % 4) = 2 → exec (.release n) s = .next
      (State.releaseReq (((s.landed x).stageWrite ((0x0C + n.1) / 4 * 4) x.be x.data).listZero (0x0C + n.1))
        n).settleBus) ∧
    (wordByte x.data ((0x0C + n.1) % 4) = 3 → exec (.clear n) s = .next
      (State.clearReq (((s.landed x).stageWrite ((0x0C + n.1) / 4 * 4) x.be x.data).listZero (0x0C + n.1))
        n).settleBus) ∧
    (wordByte x.data ((0x0C + n.1) % 4) = 4 → exec (.stopMotor n) s = .next
      (State.stopMotorReq (((s.landed x).stageWrite ((0x0C + n.1) / 4 * 4) x.be x.data).listZero (0x0C + n.1))
        n).settleBus)) ∧
  (∀ (s : State) (x : Txn) (n : Circ), s.PageWriteAt x ((0x0C + n.1) / 4 * 4) →
    x.be.getLsbD ((0x0C + n.1) % 4) = true →
    ∀ i v, (i, v) ∈ [(Instr.hold n, (1 : Byte)), (.release n, 2), (.clear n, 3), (.stopMotor n, 4)] →
      wordByte x.data ((0x0C + n.1) % 4) = v →
      exec i s = .next (State.settleBus ((lanesOf x.be).foldl
        (fun u k => u.takeRequest ((0x0C + n.1) / 4 * 4 + k))
        ((s.landed x).stageWrite ((0x0C + n.1) / 4 * 4) x.be x.data)))) ∧
  ∀ (u : State) (n : Circ),
    u.takeRequest (0x0C + n.1) =
      let v := memRead u.mirror.staging (0x0C + n.1)
      let w := u.listZero (0x0C + n.1)
      if v = 0 then u else if v = 1 then w.holdReq n else if v = 2 then w.releaseReq n
      else if v = 3 then w.clearReq n else if v = 4 then w.stopMotorReq n else w

/-- KILL_TAG, RECLASS and SNAPSHOT: a host write of the story request slot is landed and staged, and the request is
taken with the tag and class then staged (R29). The tag names a story if it is below 96 and its entry is not FREE. A
KILL_TAG or RECLASS of none lists result 1 and changes no block; of a story, KILL_TAG lists result 0 and kills it (R64),
and RECLASS lists result 2 for a class above 4, else result 0, and reclasses it (R71). A result is listed in one word with
the 0 of the request's kind, and before what the request itself lists (log entry 8). A CONTROL_PAGE_WRITE of the slot's kind
byte with a kind above 3 is only written back as 0, and with kind 0 it requests nothing (R29). -/
def Obligations.StoryRequestsAct : Prop :=
  (∀ (s : State) (x : Txn), s.PageWriteAt x 8 → x.be.getLsbD 0 = true →
    (wordByte x.data 0 = 1 → exec .killTag s = .next
      ((s.landed x).stageWrite 8 x.be x.data).killTagReq.settleBus) ∧
    (wordByte x.data 0 = 2 → exec .reclass s = .next
      ((s.landed x).stageWrite 8 x.be x.data).reclassReq.settleBus) ∧
    (wordByte x.data 0 = 3 → exec .snapshot s = .next
      ((s.landed x).stageWrite 8 x.be x.data).snapshotReq.settleBus) ∧
    (((s.landed x).stageWrite 8 x.be x.data).requestTag = none →
      (wordByte x.data 0 = 1 → ∃ t, exec .killTag s = .next t ∧ s.SameBlocks t) ∧
      (wordByte x.data 0 = 2 → ∃ t, exec .reclass s = .next t ∧ s.SameBlocks t)) ∧
    (4 ≤ (wordByte x.data 0).toNat → exec .controlPageWrite s = .next
      (State.settleBus (State.listBytes ((s.landed x).stageWrite 8 x.be x.data) 8 0b0001 0))) ∧
    (wordByte x.data 0 = 0 → exec .controlPageWrite s = .next
      ((s.landed x).stageWrite 8 x.be x.data).settleBus)) ∧
  ∀ u : State,
    let result (r : Byte) : State := u.listBytes 8 0b1001 (wordOf 0 0 0 r)
    (∀ t : Tag, u.requestTag = some t ↔ (memRead u.mirror.staging 9).toNat = t.1 ∧ u.story t ≠ none) ∧
    (u.requestTag = none → u.killTagReq = result 1 ∧ u.reclassReq = result 1) ∧
    ∀ t, u.requestTag = some t →
      u.killTagReq = (result 0).killLive .request t ∧
      (4 < (memRead u.mirror.staging 10).toNat → u.reclassReq = result 2) ∧
      ∀ c : StoryClass, (memRead u.mirror.staging 10).toNat = c.1 → u.reclassReq = (result 0).reclass t c

/-- HOLD by the circuit's state: hold pending in STOPPED, FAULT, LEAD and RUNNING, a hold taken during the break in
BROKEN, nothing in OFF and HELD, and nothing but that circuit's Line Unit moves (R139, R149). CLEAR, in R102's order: the
queue is emptied, a story's delivery there becoming ABANDONED with its report unless its story retires, a notice
reference being released; an in-service story without a stop order is given the CLEAR stop; the point becomes none;
CIRCUIT_CLEARED is posted; and the circuit keeps its state, its motor and its plane (R101, R102, R106). That
CIRCUIT_CLEARED comes before the DELIVERY_ABANDONED of a stop reached at once is the model's deduction (log entry 17). -/
def Obligations.HoldAndClear : Prop :=
  ∀ (s : State) (n : Circ),
    ((s.circ n).lu.state = .off ∨ (s.circ n).lu.state = .held → s.holdReq n = s) ∧
    ((s.circ n).lu.state = .stopped ∨ (s.circ n).lu.state = .fault ∨ (s.circ n).lu.state = .lead ∨
        (s.circ n).lu.state = .running →
      s.OnlyCirc (s.holdReq n) n ∧
        (s.holdReq n).circ n = { s.circ n with lu := { (s.circ n).lu with hold := true } }) ∧
    ((s.circ n).lu.state = .broken → s.OnlyCirc (s.holdReq n) n ∧
      (s.holdReq n).circ n = { s.circ n with
        lu := { (s.circ n).lu with
          capture := (s.circ n).lu.capture.map fun c => { c with holdTaken := true } } }) ∧
    (s.emptyQueue n).circ n = { s.circ n with sch := { (s.circ n).sch with queue := [] } } ∧
    (∀ m, m ≠ n → (s.emptyQueue n).circ m = s.circ m) ∧
    (∀ t st, Item.story t ∈ (s.circ n).sch.queue → (s.emptyQueue n).story t = some st →
      ∀ d, st.delivery n = some d → d.state = .abandoned) ∧
    (∀ t st d, s.story t = some st → st.delivery n = some d →
      s.abandonOnly t n = (s.setStory t (some (st.setDelivery n { d with state := .abandoned }))).post
        { kind := .deliveryAbandoned, feed := some st.feed, circ := some n, tag := some t, cls := some st.cls,
          number := st.number, valA := BitVec.ofNat 32 d.chars, valB := BitVec.ofNat 16 d.subs }) ∧
    ((s.circ n).sch.queue.Nodup → ∀ i, (s.emptyQueue n).notice i =
      if Item.notice i ∈ (s.circ n).sch.queue then (s.releaseRef i).notice i else s.notice i) ∧
    (let e := s.emptyQueue n
     let met := decide ((s.circ n).lu.state = .broken) && e.waitingCopy n
     let g := (e.updSch n (giveClear met)).updSch n fun c => { c with point := .none }
     s.clearReq n = State.settleLine (g.post
       { kind := .circuitCleared, circ := some n, valA := BitVec.ofNat 32 (s.circ n).sch.queue.length,
         valB := if (g.circ n).sch.stopping then 1 else 0 }) n ∧
     ((g.circ n).sch.stopping = true ↔ ∃ t, (s.circ n).sch.item = some (.story t)) ∧
     (∀ t, (s.circ n).sch.item = some (.story t) → (s.circ n).sch.stop = .none →
       (g.circ n).sch.stop = .clear ∧ (g.circ n).sch.stopMet = met) ∧
     ((s.circ n).sch.stop ≠ .none ∨ (∀ t, (s.circ n).sch.item ≠ some (.story t)) →
       (g.circ n).sch.stop = (s.circ n).sch.stop)) ∧
    ((s.clearReq n).circ n).lu.state = (s.circ n).lu.state ∧
    ((s.clearReq n).circ n).lu.motor = (s.circ n).lu.motor ∧
    ((s.clearReq n).circ n).snd.plane = (s.circ n).snd.plane ∧
    ((s.circ n).sch.item = none →
      ((s.clearReq n).circ n).sch.queue = [] ∧ ((s.clearReq n).circ n).sch.item = none)

/-- RELEASE by the circuit's state: HELD goes to RUNNING with a slot begun, a pending hold is cleared in STOPPED, LEAD,
RUNNING and FAULT, both holds of a break are cleared, and otherwise nothing changes (R141, R149). -/
def Obligations.ReleaseByState : Prop :=
  ∀ (s : State) (n : Circ),
    ((s.circ n).lu.state = .held → ((s.releaseReq n).circ n).lu.state = .running ∧
      ((s.releaseReq n).circ n).lu.slot.isSome = true) ∧
    ((s.circ n).lu.state = .lead ∨ (s.circ n).lu.state = .running → (s.circ n).lu.hold = true →
      ((s.releaseReq n).circ n).lu.hold = false ∧
        ((s.releaseReq n).circ n).lu.state = (s.circ n).lu.state) ∧
    ((s.circ n).lu.state = .stopped ∧ (s.circ n).sch.queue = [] ∨ (s.circ n).lu.state = .fault →
      ((s.releaseReq n).circ n).lu.hold = false ∧
        ((s.releaseReq n).circ n).lu.state = (s.circ n).lu.state) ∧
    ((s.circ n).lu.state = .off → s.releaseReq n = s) ∧
    ((s.circ n).lu.state = .broken → ((s.releaseReq n).circ n).lu.hold = false ∧
      ∀ c, ((s.releaseReq n).circ n).lu.capture = some c → c.holdTaken = false ∧ c.from_ ≠ .held) ∧
    ((s.circ n).lu.state ≠ .held → (s.circ n).lu.state ≠ .broken → (s.circ n).lu.hold = false →
      s.releaseReq n = s)

/-- A RECLASS that finds the story in that class changes nothing, and one that finds it KILLED or CUT changes only the
class (R71). One of an OPEN or CLOSED story to another class sets it and then acts on the story's deliveries in ascending
circuit number: a WAITING or PREEMPTED one leaves its queue and is placed by R90 under the new class, and its circuit
acts; an IN_SERVICE one stays, and its circuit acts, with the preemption point recomputed; the others are not touched
(R107). A kill that finds the story KILLED or CUT posts its report with no circuit noticed and changes nothing else; a kill
by a spike does nothing, and so does the cut of a CUT story (R70). The cut of a KILLED story makes it CUT, takes it from
its feed's list, sets the account, marks a fetch of it in flight to be discarded (R145), posts OVERRUN_CUT and makes the
retirement test; its deliveries and every other story stay (R68). -/
def Obligations.WithdrawnStories : Prop :=
  (∀ (s : State) (t : Tag) (st : Story), s.story t = some st →
    s.reclass t st.cls = s ∧
    (st.state = .open_ ∨ st.state = .closed → ∀ c, c ≠ st.cls →
      s.reclass t c = allCircs.foldl (State.reclassOn t) (s.setStory t (some { st with cls := c }))) ∧
    (st.state = .killed ∨ st.state = .cut →
      (∀ c, c ≠ st.cls → s.reclass t c = s.setStory t (some { st with cls := c })) ∧
      (∀ src, src ≠ .overrun →
        s.killLive src t = if src = .ring ∨ src = .victim then s else s.post (killReport src t st 0)) ∧
      (st.state = .cut → s.killLive .overrun t = s)) ∧
    (st.state = .killed → ∃ k : State,
      s.killLive .overrun t = (k.post
        { kind := .overrunCut, feed := some st.feed, tag := some t, cls := some st.cls, number := st.number,
          valA := 3, valB := 0 }).retireTest t ∧
      k.story t = some { st with state := .cut } ∧ (∀ u, u ≠ t → k.story u = s.story u) ∧
      k.flist st.feed = (s.flist st.feed).filter (· != t) ∧ (∀ f, f ≠ st.feed → k.flist f = s.flist f) ∧
      ((s.fcfg st.feed).win ≠ none →
        ((k.acct st.feed).release, (k.acct st.feed).occ) = k.accountOf st.feed) ∧
      (∀ f, f ≠ st.feed → k.acct f = s.acct f) ∧
      k.admission = s.admission ∧ k.index = s.index ∧ k.history = s.history ∧ k.pool = s.pool ∧
      k.intake = s.intake ∧ k.applied = s.applied ∧ k.writer = s.writer ∧ k.mirror = s.mirror ∧
      ∀ n, k.circ n = if (s.circ n).sch.item = some (.story t)
        then { s.circ n with ftc := (s.circ n).ftc.discard .dropBack } else s.circ n)) ∧
  ∀ (s : State) (t : Tag) (st : Story) (n : Circ), s.story t = some st →
    (st.delivery n = none → State.reclassOn t s n = s) ∧
    ∀ d, st.delivery n = some d →
      (d.state = .done ∨ d.state = .abandoned → State.reclassOn t s n = s) ∧
      (d.state = .inService → State.reclassOn t s n = s.sched n) ∧
      (d.state = .waiting ∨ d.state = .preempted → State.reclassOn t s n = State.sched (s.updSch n fun c =>
        { c with queue := s.insertNew (.story t) (c.queue.filter (· != Item.story t)) }) n)

/-- SNAPSHOT: with none in writing the 420 words are captured and the count advances, wrapping; with one in writing the
request waits; no block is touched (R30). The words hold, byte by byte, the eight circuit records, the 96 story summaries
and the header of R172, by its codes, and stand at the page offsets of chapter 11, the header's last. That
the header holds the count after the increment is the model's deduction (log entry 51). -/
def Obligations.SnapshotIsCaptured : Prop :=
  (∀ (s : State) (x : Txn), s.PageWriteAt x 8 → x.be.getLsbD 0 = true → wordByte x.data 0 = 3 →
    ∃ t, exec .snapshot s = .next t ∧ s.SameBlocks t ∧
      (s.mirror.snap = none → t.mirror.snapCount = s.mirror.snapCount + 1 ∧
        t.mirror.snap = some { words := s.snapWords (s.mirror.snapCount + 1), next := 0, waiting := false }) ∧
      (∀ j, s.mirror.snap = some j → t.mirror.snapCount = s.mirror.snapCount ∧
        t.mirror.snap = some { j with waiting := true })) ∧
  (∀ (s : State) (k : Word32),
    let b (j : Nat) : Byte := wordByte ((s.snapWords k).getD (j / 4) 0) (j % 4)
    (s.snapWords k).length = 420 ∧
    (∀ n : Circ,
      let c := s.circ n
      let o := 16 * n.1
      b o = byteN c.lu.state.code ∧ b (o + 1) = byteN c.sch.queue.length ∧
      b (o + 2) = (match c.sch.item with
        | none => 0xFF
        | some (.notice _) => 0xFE
        | some (.story t) => byteN t.1) ∧
      b (o + 3) = byteN c.snd.column ∧ b (o + 4) = byteN (planeNum c.snd.plane) ∧
      b (o + 5) = c.snd.lineCount.extractLsb' 0 8 ∧ b (o + 6) = c.snd.lineCount.extractLsb' 8 8 ∧
      (c.lu.capture = none → b (o + 7) = 0 ∧ b (o + 8) = 0 ∧ b (o + 9) = 0) ∧
      (∀ r, c.lu.capture = some r → b (o + 7) = byteN r.origin.code ∧
        b (o + 8) = r.lineCount.extractLsb' 0 8 ∧ b (o + 9) = r.lineCount.extractLsb' 8 8) ∧
      ∀ i, 10 ≤ i → i < 16 → b (o + i) = 0) ∧
    (∀ t : Tag,
      let o := 128 + 16 * t.1
      b o = byteN t.1 ∧ b (o + 14) = 0 ∧ b (o + 15) = 0 ∧
      (s.story t = none → b (o + 1) = 0 ∧ ∀ i, 2 ≤ i → i < 14 → b (o + i) = 0xFF) ∧
      (∀ st, s.story t = some st →
        b (o + 1) = byteN st.state.code ∧ b (o + 2) = byteN st.cls.1 ∧ b (o + 3) = byteN st.feed.1 ∧
        (st.number = none → b (o + 4) = 0xFF ∧ b (o + 5) = 0xFF) ∧
        (∀ m, st.number = some m → b (o + 4) = m.extractLsb' 0 8 ∧ b (o + 5) = m.extractLsb' 8 8) ∧
        ∀ n : Circ, (st.delivery n = none → b (o + 6 + n.1) = 0xFF) ∧
          ∀ d, st.delivery n = some d → b (o + 6 + n.1) = byteN d.state.code)) ∧
    (∀ i, i < 4 → b (1664 + i) = wordByte k i) ∧ ∀ i, 4 ≤ i → i < 16 → b (1664 + i) = 0) ∧
  (∀ j, j < 416 → snapOffset j = 0x810 + 4 * j) ∧ (∀ j, j < 4 → snapOffset (416 + j) = 0x800 + 4 * j) ∧
  [CState.off, .stopped, .lead, .running, .held, .broken, .fault].map CState.code = [0, 1, 2, 3, 4, 5, 6] ∧
  [some Plane.ltr, some .fig, some .nat, none].map planeNum = [0, 1, 2, 3] ∧
  [StoryState.open_, .closed, .killed, .cut].map StoryState.code = [1, 2, 3, 4] ∧
  [DelState.waiting, .inService, .preempted, .done, .abandoned].map DelState.code = [0, 1, 2, 3, 4] ∧
  (∀ o, Origin.code (.text o) = 1) ∧ (∀ k, Origin.code (.svc (.notice k)) = 5 ∧ Origin.code (.svc (.stop k)) = 6) ∧
  [Origin.svc .head, .svc .resume, .svc .endLine, .svc .lost, .none].map Origin.code = [2, 3, 4, 7, 8]

/-! ### Copy intake, stories and rings (chapters 3 to 5) -/

/-- A write in a feed's window is taken when its lowest enabled lane stands at the cursor and its enabled lanes form one
unbroken run; every other one is stray (R36). HOST_FEED_WRITE of a stray write: it reaches memory, is counted, and is
reported if the stray report is armed; the cursor, the parse state, the stories and the circuits stay (R36, R37). -/
def Obligations.StrayWriteIsCounted : Prop :=
  (∀ (s : State) (f : Feed) (off : Nat) (be : BitVec 4), be ≠ 0 →
    (s.isTaken f off be = true ↔ ∃ i k, 0 < k ∧ i + k ≤ 4 ∧ (s.ctx f).cursor = off + i ∧
      ∀ j, j < 4 → (be.getLsbD j = true ↔ i ≤ j ∧ j < i + k))) ∧
  ∀ (s : State) (x : Txn) (f : Feed) (off : Nat), s.FeedWriteAt x f off → s.isTaken f off x.be = false →
    ∃ t, exec .hostFeedWrite s = .next t ∧ t.mem = memApply s.mem x ∧
      t.ctx f = { s.ctx f with stray := satInc 65535 (s.ctx f).stray, strayArmed := false } ∧
      (∀ g, g ≠ f → t.ctx g = s.ctx g) ∧ t.stories = s.stories ∧ t.accounts = s.accounts ∧
      t.circuits = s.circuits ∧ t.applied = s.applied ∧
      ((s.ctx f).strayArmed = false → t.writer = s.writer) ∧
      ((s.ctx f).strayArmed = true → t.writer = (s.post
        { kind := .strayWrite, feed := some f,
          valA := BitVec.ofNat 32 (s.fbase f + off + lowestLane x.be),
          valB := BitVec.ofNat 16 (satInc 65535 (s.ctx f).stray) }).writer)

/-- HOST_FEED_WRITE of a taken write (R38; O29 says when a write is taken, R36), in one event: its enabled bytes are
overrun-tested (R83), parsed in ascending order, and accounted, with a growth event between if the write added to an open
story; and each of the four steps, one turn at a time. A feed the write leaves without a window has its remaining bytes dropped and no account to keep (R54, R76;
the overrun's cuts leaving it so before the first byte, the model's choice, log entry 35). Then what one byte does in each
parse state but BETWEEN, the cursor passing it. HEADER: TEXT or the 48th byte ends the header with an admission request
(R41, R44), OPEN begins another, CLOSE abandons it with LOOSE_COPY, and other bytes are counted, those from 20h on stored
(R41). TEXT: TAKE counts a take, KILL begins a directive, CLOSE and OPEN close the story, OPEN with UNCLOSED (R45 to R47,
R62). DISCARD: CLOSE and OPEN send the pass event of an attached story, KILL begins a directive (R48, R62). KILLNUM:
digits are collected (R52); another byte ends the directive, which is carried out, and the byte is processed in the return
state as the kill left it (R53). An entry into BETWEEN is told to the Mirror, which takes a window part that waits (R54);
that a directive's end tells it before the ending byte is the model's deduction (log entry 20). -/
def Obligations.TakenWriteIsParsed : Prop :=
  let past (u : State) (f : Feed) (c : FeedCtx) : State :=
    u.setCtx f { c with cursor := ((u.ctx f).cursor + 1) % u.fsize f }
  let header (u : State) (f : Feed) : State :=
    past u f { u.ctx f with parse := .header (u.ctx f).cursor 0 [], strayArmed := true }
  let between (u : State) (f : Feed) : State :=
    (past u f { u.ctx f with parse := .between, looseArmed := true }).feedBoundary f
  (∀ (s : State) (x : Txn) (f : Feed) (off : Nat), s.FeedWriteAt x f off → s.isTaken f off x.be = true →
    let bytes := (lanesOf x.be).map (wordByte x.data)
    exec .hostFeedWrite s = .next
      ((((s.landed x).overrunTest f bytes.length |> State.parseBytes f bytes).growthStep f).accountStep f).settleBus) ∧
  (∀ (s : State) (f : Feed),
    (∀ n, (s.acct f).occ + n ≤ s.fsize f → s.overrunTest f n = s) ∧
    (∀ n, s.fsize f < (s.acct f).occ + n →
      let u := State.cutLoop f n 97 s
      s.overrunTest f n = if (u.fcfg f).win = none then u else u.warnTest f) ∧
    (∀ n k, (s.acct f).occ + n ≤ s.fsize f → State.cutLoop f n k s = s) ∧
    (∀ n k t l, s.fsize f < (s.acct f).occ + n → s.flist f = t :: l →
      State.cutLoop f n (k + 1) s = State.cutLoop f n k ((s.killLive .overrun t).intakeCut f t)) ∧
    (∀ t, (s.ctx f).parse.openTag ≠ some t → s.intakeCut f t = s) ∧
    (∀ t, (s.ctx f).parse.openTag = some t →
      s.intakeCut f t = State.passEvent (s.setParse f (s.ctx f).parse.dropOpen) t false) ∧
    State.parseBytes f [] s = s ∧
    (∀ bs, (s.fcfg f).win = none → State.parseBytes f bs s = s) ∧
    (∀ b bs, (s.fcfg f).win ≠ none → State.parseBytes f (b :: bs) s = State.parseBytes f bs (s.parseByte f b)) ∧
    ((s.ctx f).parse.growing = none → s.growthStep f = s) ∧
    (∀ t st, (s.ctx f).parse.growing = some t → s.story t = some st →
      s.growthStep f =
        if st.textEnd = (s.ctx f).cursor then s
        else (State.clearDry (s.setStory t (some { st with textEnd := (s.ctx f).cursor })) t).settleServing t) ∧
    (∀ t st, s.story t = some st → s.clearDry t =
      if st.dry = 0 then s
      else (allCircs.filter fun n => CircSet.has st.dry n).foldl State.sched
        (s.setStory t (some { st with dry := 0 }))) ∧
    ((s.fcfg f).win = none → s.accountStep f = s) ∧
    ((s.fcfg f).win ≠ none → s.accountStep f = State.spikeTest 97 ((s.setAccount f).warnTest f) f) ∧
    ((∀ l, s.spikeLevel f = some l → (s.acct f).occ ≤ l) → ∀ k, State.spikeTest k s f = s) ∧
    (∀ l k t q st, s.spikeLevel f = some l → l < (s.acct f).occ → s.flist f = t :: q → s.story t = some st →
      (st.state = .killed ∨ st.state = .cut → State.spikeTest (k + 1) s f = s) ∧
      (st.state = .open_ ∨ st.state = .closed → 3 ≤ st.cls.1 → State.spikeTest (k + 1) s f =
        if (s.killLive .ring t).story t = none then State.spikeTest k (s.killLive .ring t) f
        else s.killLive .ring t) ∧
      (st.state = .open_ ∨ st.state = .closed → st.cls.1 < 3 → State.spikeTest (k + 1) s f =
        if (s.acct f).blocked = some t then s
        else (s.setAcct f { s.acct f with blocked := some t }).post
          { kind := .feedBlocked, feed := some f, tag := some t, cls := some st.cls, number := st.number,
            valA := BitVec.ofNat 32 (s.acct f).occ, valB := BitVec.ofNat 16 (s.flist f).length })) ∧
    (vget s.mirror.pendWin f ≠ .waiting ∨ s.winCond f = false → s.feedBoundary f = s) ∧
    (vget s.mirror.pendWin f = .waiting → s.winCond f = true → s.feedBoundary f = s.tryWin f)) ∧
  (∀ (s : State) (f : Feed) (b : Byte) (o k : Nat) (h : List Byte), (s.ctx f).parse = .header o k h →
    (b = 0x02 → s.parseByte f b = s.endHeader f o h false) ∧
    (b = 0x01 → s.parseByte f b = header s f) ∧
    (b = 0x03 → s.parseByte f b = between (s.post
      { kind := .looseCopy, feed := some f, valA := BitVec.ofNat 32 o, valB := 1 }) f) ∧
    (b ≠ 0x01 → b ≠ 0x02 → b ≠ 0x03 →
      let h' := if 0x20 ≤ b.toNat then h ++ [b] else h
      (k ≠ 47 → s.parseByte f b = past s f { s.ctx f with parse := .header o (k + 1) h' }) ∧
      (k = 47 → s.parseByte f b = s.endHeader f o h' true))) ∧
  (∀ (s : State) (f : Feed) (o : Nat) (h : List Byte) (full : Bool),
    let u := past s f (s.ctx f)
    let r := u.admitStory
      { feed := f, hdr := { parseHeader h with fault := (parseHeader h).fault || full }, openOff := o,
        textStart := (u.ctx f).cursor, stray := (s.ctx f).stray }
    (r.2 = none → s.endHeader f o h full = r.1.setCtx f { r.1.ctx f with parse := .discard none }) ∧
    ∀ t, r.2 = some t → s.endHeader f o h full = r.1.setCtx f { r.1.ctx f with parse := .text t, stray := 0 }) ∧
  (∀ (s : State) (f : Feed) (b : Byte) (t : Tag) (st : Story), (s.ctx f).parse = .text t → s.story t = some st →
    (b = 0x04 → s.parseByte f b =
      past (s.setStory t (some { st with takes := if st.takes < 255 then st.takes + 1 else 255 })) f (s.ctx f)) ∧
    (b = 0x18 → s.parseByte f b = past s f { s.ctx f with parse := .killnum (.text t) 0 0 }) ∧
    (b = 0x03 → s.parseByte f b = between (s.closeEvent t (s.ctx f).cursor false) f) ∧
    (b = 0x01 → s.parseByte f b = header (s.closeEvent t (s.ctx f).cursor true) f) ∧
    (b ≠ 0x01 → b ≠ 0x03 → b ≠ 0x04 → b ≠ 0x18 → s.parseByte f b = past s f (s.ctx f))) ∧
  (∀ (s : State) (t : Tag) (st : Story) (off : Nat) (un : Bool), s.story t = some st →
    (st.state ≠ .open_ → s.closeEvent t off un = s) ∧
    (st.state = .open_ →
      let u := s.setStory t (some { st with state := .closed, textEnd := off, unclosed := st.unclosed || un })
      s.closeEvent t off un = (((u.endStarving t).clearDry t).settleServing t).retireTest t ∧
      (u.endStarving t).stories = u.stories ∧
      ∀ n, (u.endStarving t).circ n = if (s.circ n).sch.item = some (.story t)
        then { s.circ n with sch := { (s.circ n).sch with starve := 0 } } else s.circ n) ∧
    s.passEvent t un =
      (s.setStory t (some { st with kwo := false, unclosed := st.unclosed || un })).retireTest t ∧
    s.settleServing t =
      (allCircs.filter fun n => (s.circ n).sch.item == some (.story t)).foldl State.settleLine s) ∧
  (∀ (s : State) (f : Feed) (b : Byte) (o : Option Tag), (s.ctx f).parse = .discard o →
    let passed (un : Bool) : State := match o with
      | none => s
      | some t => s.passEvent t un
    (b = 0x03 → s.parseByte f b = between (passed false) f) ∧
    (b = 0x01 → s.parseByte f b = header (passed true) f) ∧
    (b = 0x18 → s.parseByte f b = past s f { s.ctx f with parse := .killnum (.discard o) 0 0 }) ∧
    (b ≠ 0x01 → b ≠ 0x03 → b ≠ 0x18 → s.parseByte f b = past s f (s.ctx f))) ∧
  (∀ (s : State) (f : Feed) (b : Byte) (r : Ret) (k v : Nat), (s.ctx f).parse = .killnum r k v →
    (0x30 ≤ b.toNat ∧ b.toNat ≤ 0x39 → s.parseByte f b = past s f { s.ctx f with
      parse := .killnum r (min 6 (k + 1)) (if k < 5 then 10 * v + (b.toNat - 0x30) else v) }) ∧
    (¬(0x30 ≤ b.toNat ∧ b.toNat ≤ 0x39) → s.parseByte f b = (s.directive f k v).returnParse f b)) ∧
  ∀ (s : State) (f : Feed) (k v : Nat) (b : Byte),
    (1 ≤ k → k ≤ 5 → v ≤ 65535 →
      let r := s.killNumber .directive f (BitVec.ofNat 16 v)
      s.directive f k v = if r.2 then r.1 else r.1.post
        { kind := .killUnmatched, feed := some f, number := some (BitVec.ofNat 16 v), valA := 0 }) ∧
    (¬(1 ≤ k ∧ k ≤ 5 ∧ v ≤ 65535) →
      s.directive f k v = s.post { kind := .killUnmatched, feed := some f, number := none, valA := 1 }) ∧
    (∀ i j, (s.ctx f).parse = .killnum .between i j →
      let w := (s.setCtx f { s.ctx f with parse := .between }).feedBoundary f
      s.returnParse f b = if (w.fcfg f).win = none then w else w.parseByte f b) ∧
    (∀ t i j, (s.ctx f).parse = .killnum (.text t) i j →
      s.returnParse f b = (s.setCtx f { s.ctx f with parse := .text t }).parseByte f b) ∧
    (∀ o i j, (s.ctx f).parse = .killnum (.discard o) i j →
      s.returnParse f b = (s.setCtx f { s.ctx f with parse := .discard o }).parseByte f b)

/-- A byte in BETWEEN (R40): OPEN begins a header and arms the stray report, KILL begins a directive, loose copy with the
loose report armed posts LOOSE_COPY with its ring offset and disarms it, any other control is dropped; the cursor passes
the byte and the stories stay. -/
def Obligations.BytesBetweenStories : Prop :=
  ∀ (s : State) (f : Feed) (b : Byte), (s.ctx f).parse = .between →
    (s.parseByte f b).stories = s.stories ∧
    (b = 0x01 → (s.parseByte f b).ctx f = { s.ctx f with
      parse := .header (s.ctx f).cursor 0 [], strayArmed := true
      cursor := ((s.ctx f).cursor + 1) % s.fsize f }) ∧
    (b = 0x18 → (s.parseByte f b).ctx f = { s.ctx f with
      parse := .killnum .between 0 0, cursor := ((s.ctx f).cursor + 1) % s.fsize f }) ∧
    (b = 0x02 ∨ b = 0x03 ∨ b = 0x04 ∨ b = 0x0A ∨ 0x20 ≤ b.toNat → (s.parseByte f b).ctx f = { s.ctx f with
      looseArmed := false, cursor := ((s.ctx f).cursor + 1) % s.fsize f } ∧
      ((s.ctx f).looseArmed = true → (s.parseByte f b).writer = (s.post
        { kind := .looseCopy, feed := some f, valA := BitVec.ofNat 32 (s.ctx f).cursor, valB := 0 }).writer) ∧
      ((s.ctx f).looseArmed = false → (s.parseByte f b).writer = s.writer)) ∧
    (b = 0x01 ∨ b = 0x18 → (s.parseByte f b).writer = s.writer) ∧
    (b.toNat < 0x20 → b ≠ 0x01 → b ≠ 0x02 → b ≠ 0x03 → b ≠ 0x04 → b ≠ 0x0A → b ≠ 0x18 →
      (s.parseByte f b).writer = s.writer ∧
      (s.parseByte f b).ctx f = { s.ctx f with cursor := ((s.ctx f).cursor + 1) % s.fsize f })

/-- The class and the story number of a header (R42). -/
def Obligations.HeaderClassAndNumber : Prop :=
  (parseHeader [] = { cls := 3, number := none, replaced := none, slug := [], fault := true }) ∧
  ∀ (c : Byte) (ds rest : List Byte), (∀ d ∈ ds, isDigit d = true) →
    (∀ b r, rest = b :: r → isDigit b = false) →
    (parseHeader (c :: (ds ++ rest))).cls.1 =
      (if 0x30 ≤ c.toNat ∧ c.toNat ≤ 0x34 then c.toNat - 0x30 else 3) ∧
    (parseHeader (c :: (ds ++ rest))).number =
      (if 1 ≤ ds.length ∧ ds.length ≤ 5 ∧ digitsValue ds ≤ 65535 then some (BitVec.ofNat 16 (digitsValue ds))
        else none) ∧
    ((parseHeader (c :: (ds ++ rest))).fault = true ↔
      ¬(0x30 ≤ c.toNat ∧ c.toNat ≤ 0x34) ∨
      ¬(1 ≤ ds.length ∧ ds.length ≤ 5 ∧ digitsValue ds ≤ 65535) ∨ (headerTail rest).2.2 = true)

/-- The rest of a header: its replaced number, its slug and whether it has a fault, with or without a story number
before it (R43). -/
def Obligations.HeaderReplacedAndSlug : Prop :=
  (∀ (c : Byte) (ds rest : List Byte), (∀ d ∈ ds, isDigit d = true) →
    (∀ b r, rest = b :: r → isDigit b = false) →
    (parseHeader (c :: (ds ++ rest))).replaced = (headerTail rest).1 ∧
    (parseHeader (c :: (ds ++ rest))).slug = (headerTail rest).2.1) ∧
  headerTail [] = (none, [], false) ∧
  (∀ slug : List Byte, headerTail (0x20 :: slug) = (none, slug.take 24, false)) ∧
  (∀ (b : Byte) (r : List Byte), b ≠ 0x20 → b ≠ 0x2F → headerTail (b :: r) = (none, [], true)) ∧
  (∀ (ds rest : List Byte), (∀ d ∈ ds, isDigit d = true) → (∀ b r, rest = b :: r → isDigit b = false) →
    headerTail (0x2F :: (ds ++ rest)) =
      (if 1 ≤ ds.length ∧ ds.length ≤ 5 ∧ digitsValue ds ≤ 65535 then some (BitVec.ofNat 16 (digitsValue ds))
        else none,
       match rest with
        | [] => []
        | b :: r => if b = 0x20 then r.take 24 else [],
       !decide (1 ≤ ds.length ∧ ds.length ≤ 5 ∧ digitsValue ds ≤ 65535) ||
        match rest with
        | [] => false
        | b :: _ => b != 0x20))

/-- The retirement test: a story that is open at the intake or has a delivery WAITING, IN_SERVICE or PREEMPTED stays.
Any other retires (R72): a numbered story with a non-empty sent set leaves a kill history entry, the newest of at most 64
(R74); the index keys that map to it go; it leaves the admission list and its feed's list, a blocked tag that names it
becomes none (R82), and the account follows the list, with the warning test (R78); STORY_RETIRED is posted; and the entry
becomes FREE, every other story staying as it is. A window part that waits for the feed is then examined (R73). That the
account is recomputed with the cursor as it stands, partway through a taken write and for a story that is not the head too,
is the model's choice (log entry 36). -/
def Obligations.RetirementTest : Prop :=
  ∀ (s : State) (t : Tag) (st : Story), s.story t = some st →
    (st.openAtIntake = true ∨ (∃ n, st.activeOn n = true) → s.retireTest t = s) ∧
    (st.openAtIntake = false → (∀ n, st.activeOn n = false) →
      (s.retireTest t).story t = none ∧ t ∉ (s.retireTest t).admission ∧
        (∀ u, u ≠ t → (s.retireTest t).story u = s.story u) ∧
        ∃ k : State,
          let a := k.setAccount st.feed
          let w := if (a.acct st.feed).occ = (s.acct st.feed).occ then a else a.warnTest st.feed
          s.retireTest t = ((w.post
            { kind := .storyRetired, feed := some st.feed, tag := some t, cls := some st.cls, number := st.number,
              valA := wordOf st.sent (byteN st.state.code) 0 0, valB := BitVec.ofNat 16 st.takes,
              unclosed := st.unclosed }).setStory t none).feedBoundary st.feed ∧
          (st.number = none ∨ st.sent = 0 → k.history = s.history) ∧
          (∀ m, st.number = some m → st.sent ≠ 0 → k.history =
            { feed := st.feed, number := m, slug := st.slug, cls := st.cls, circs := st.sent }
              :: s.history.take 63) ∧
          k.index = s.index.filter (fun e => e.tag != t) ∧ k.admission = s.admission.filter (· != t) ∧
          k.flist st.feed = (s.flist st.feed).filter (· != t) ∧ (∀ f, f ≠ st.feed → k.flist f = s.flist f) ∧
          k.acct st.feed = { s.acct st.feed with
            blocked := if (s.acct st.feed).blocked = some t then none else (s.acct st.feed).blocked } ∧
          (∀ f, f ≠ st.feed → k.acct f = s.acct f) ∧
          k.circuits = s.circuits ∧ k.stories = s.stories ∧ k.pool = s.pool ∧ k.intake = s.intake ∧
          k.applied = s.applied ∧ k.mirror = s.mirror ∧ k.writer = s.writer)

/-- Admission. The lowest-numbered FREE entry is chosen, else the victim of R56, spiked first (R57), else the story is
refused with TABLE_FULL (R56). The record is filled from the request and the tag joins the two lists (R58); the route set
is the matrix entry less the circuits that are OFF, and in ascending order each of its circuits gets a WAITING delivery
and acts; STORY_OPENED is posted (R58); then the supersede, unmatched or a kill (R59), and the number index, with
DUPLICATE_NUMBER for a number whose story is OPEN or CLOSED (R60). As the tag joins, the account of the story's feed is
recomputed (R78): the release pointer is the OPEN offset of the list's head, the new story if the list was empty, and the
occupancy leads from it to the cursor, with the warning test where it changed; no other account moves. That it takes the
cursor as it stands also where the list was not empty is the model's choice (log entry 36). -/
def Obligations.AdmissionFillsAnEntry : Prop :=
  (∀ (s : State) (a : Admission),
    (∀ t, s.story t = none → (∀ u, u < t → s.story u ≠ none) → s.admitStory a = (s.fillEntry a t, some t)) ∧
    ((∀ t, s.story t ≠ none) →
      ((∀ t ∈ s.admission, ∀ st, s.story t = some st → ¬(st.state = .closed ∧ 3 ≤ st.cls.1 ∧ st.sent = 0 ∧
          ∀ n d, st.delivery n = some d → d.state ≠ .inService)) →
        s.admitStory a = (s.post { kind := .tableFull, feed := some a.feed, cls := some a.hdr.cls,
                                   number := a.hdr.number, valA := BitVec.ofNat 32 a.openOff }, none)) ∧
      (∀ l t q st, s.admission = l ++ t :: q → s.story t = some st → st.state = .closed → 3 ≤ st.cls.1 →
        st.sent = 0 → (∀ n d, st.delivery n = some d → d.state ≠ .inService) →
        (∀ u ∈ l, ∀ x, s.story u = some x → ¬(x.state = .closed ∧ 3 ≤ x.cls.1 ∧ x.sent = 0 ∧
          ∀ n d, x.delivery n = some d → d.state ≠ .inService)) →
        s.admitStory a = ((s.killLive .victim t).fillEntry a t, some t)))) ∧
  (∀ (s : State) (a : Admission) (t : Tag),
    let route := s.routeList a.feed a.hdr.cls
    let e := s.enterStory a t route
    (∀ n, n ∈ route ↔ CircSet.has (s.routeEntry a.feed a.hdr.cls) n = true ∧ (s.circ n).lu.state ≠ .off) ∧
    route.Pairwise (· < ·) ∧ (∀ n, CircSet.has (circSetOf route) n = true ↔ n ∈ route) ∧
    s.fillEntry a t = State.indexStory (State.supersede
      ((route.foldl (State.createDelivery t a.textStart) e).post
        { kind := .storyOpened, feed := some a.feed, tag := some t, cls := some a.hdr.cls, number := a.hdr.number,
          valA := wordOf (circSetOf route) 0 0 0, valB := BitVec.ofNat 16 a.stray, hdrFault := a.hdr.fault,
          unrouted := route.isEmpty }) a t) a t ∧
    e.story t = some
      { state := .open_, kwo := false, feed := a.feed, cls := a.hdr.cls, number := a.hdr.number,
        slug := a.hdr.slug, openOff := a.openOff, textStart := a.textStart, textEnd := a.textStart, takes := 0,
        route := circSetOf route, hdrFault := a.hdr.fault, unclosed := false, unrouted := route.isEmpty,
        deliveries := Vector.replicate 8 none, sent := 0, dry := 0 } ∧
    (∀ u, u ≠ t → e.story u = s.story u) ∧ e.admission = s.admission ++ [t] ∧
    e.flist a.feed = s.flist a.feed ++ [t] ∧ (∀ f, f ≠ a.feed → e.flist f = s.flist f) ∧
    e.circuits = s.circuits ∧ e.index = s.index ∧ e.history = s.history ∧
    (∀ f, f ≠ a.feed → e.acct f = s.acct f) ∧
    ((s.fcfg a.feed).win = none → e.acct a.feed = s.acct a.feed ∧ e.writer = s.writer) ∧
    ((s.fcfg a.feed).win ≠ none → ∀ o,
      (s.flist a.feed = [] ∧ o = a.openOff ∨
        ∃ h l st, s.flist a.feed = h :: l ∧ h ≠ t ∧ s.story h = some st ∧ o = st.openOff) →
      ∃ k : State,
        let d := ringDist (s.fsize a.feed) o (s.ctx a.feed).cursor
        k.acct a.feed = { s.acct a.feed with release := o, occ := if d = 0 then s.fsize a.feed else d } ∧
        k.applied = s.applied ∧ k.writer = s.writer ∧ k.flist a.feed = s.flist a.feed ++ [t] ∧
        e = if (k.acct a.feed).occ = (s.acct a.feed).occ then k else k.warnTest a.feed)) ∧
  (∀ (s : State) (t : Tag) (st : Story) (off : Nat) (n : Circ), s.story t = some st →
    State.createDelivery t off s n = State.sched (State.enqueueNew (s.setStory t (some (st.setDelivery n
      { state := .waiting, headSent := false, resumeOff := off, inDirective := false, chars := 0, subs := 0,
        lines := 0 }))) n (.story t)) n) ∧
  ∀ (s : State) (a : Admission) (t : Tag),
    (a.hdr.replaced = none → s.supersede a t = s) ∧
    (∀ m, a.hdr.replaced = some m →
      ((s.killNumber .supersede a.feed m).2 = true → s.supersede a t = (s.killNumber .supersede a.feed m).1) ∧
      ((s.killNumber .supersede a.feed m).2 = false → s.supersede a t = s.post
        { kind := .supersedeUnmatched, feed := some a.feed, tag := some t, number := some m,
          valA := (optNumber a.hdr.number).setWidth 32 })) ∧
    (a.hdr.number = none → s.indexStory a t = s) ∧
    (∀ m, a.hdr.number = some m →
      (∀ f k, (s.indexStory a t).indexFind f k = if f = a.feed ∧ k = m then some t else s.indexFind f k) ∧
      ((∀ u st, s.indexFind a.feed m = some u → s.story u = some st → st.state = .killed ∨ st.state = .cut) →
        s.indexStory a t = { s with index := (s.indexStory a t).index }) ∧
      (∀ u st, s.indexFind a.feed m = some u → s.story u = some st → st.state = .open_ ∨ st.state = .closed →
        s.indexStory a t = State.post { s with index := (s.indexStory a t).index }
          { kind := .duplicateNumber, feed := some a.feed, tag := some t, number := some m,
            valA := BitVec.ofNat 32 u.1 }))

/-- The kill of an OPEN or CLOSED story, whatever its source (R64, R66 to R68). Its record becomes KILLED, or CUT for an
overrun cut, which takes it from its feed's list; killed while open its text ends at the cursor and the intake is told
(R50); its dry marks go. Then, in this order: its WAITING and PREEMPTED deliveries become ABANDONED and leave their
queues, an IN_SERVICE one is given the kill stop of the source's kind, and no other delivery moves (R67, R103); the
circuits whose delivery was PREEMPTED, DONE or ABANDONED and that are in the sent set and not OFF are noticed; the source's
report is posted with their number; the stops of deliveries that were waiting for copy are reached; the circuits act; and
the story is tested for retirement. That an ABANDONED delivery in the sent set is noticed, by R63 and R106 against R67's
table, is the model's choice (log entry 49); that the report comes before the stops reached at once is its deduction (log
entry 17). -/
def Obligations.LiveStoryIsKilled : Prop :=
  ∀ (s : State) (src : KillSource) (t : Tag) (st : Story), s.story t = some st →
    st.state = .open_ ∨ st.state = .closed →
    let k := s.killMark src t st
    let e := k.killDeliveries src t
    let r := e.makeNotices src.kind (sourceOf t st) (allCircs.filter (s.noticed st))
    s.killLive src t = ((((allCircs.filter fun n => s.serving t n && s.waitingCopy n).foldl (State.stopWaited t)
      (r.1.post (killReport src t st r.2))).schedAll).retireTest t) ∧
    (src ≠ .overrun → st.state = .open_ →
      k.story t = some { st with state := .killed, kwo := true, textEnd := (s.ctx st.feed).cursor, dry := 0 } ∧
      ((s.ctx st.feed).parse = .text t → (k.ctx st.feed).parse = .discard (some t)) ∧
      (∀ a b, (s.ctx st.feed).parse = .killnum (.text t) a b →
        (k.ctx st.feed).parse = .killnum (.discard (some t)) a b)) ∧
    (src ≠ .overrun → st.state = .closed →
      k.story t = some { st with state := .killed, dry := 0 } ∧ k.intake = s.intake) ∧
    (src = .overrun → k.story t = some { st with state := .cut, dry := 0 } ∧ k.intake = s.intake ∧
      k.flist st.feed = (s.flist st.feed).filter (· != t) ∧
      (∀ f, f ≠ st.feed → k.flist f = s.flist f)) ∧
    (src ≠ .overrun → k.feedLists = s.feedLists ∧ k.accounts = s.accounts) ∧
    (∀ u, u ≠ t → e.story u = s.story u) ∧ k.circuits = s.circuits ∧ k.writer = s.writer ∧
    e.admission = s.admission ∧ e.index = s.index ∧ e.history = s.history ∧ e.pool = s.pool ∧
    (∀ n, st.delivery n = none → e.circ n = s.circ n) ∧
    (∀ n d, st.delivery n = some d → ∃ st', e.story t = some st' ∧
      (d.state = .waiting ∨ d.state = .preempted →
        st'.delivery n = some { d with state := .abandoned } ∧
        e.circ n = { s.circ n with
          sch := { (s.circ n).sch with queue := (s.circ n).sch.queue.filter (· != Item.story t) } }) ∧
      (d.state = .inService → st'.delivery n = some d ∧
        (e.circ n).sch = { (s.circ n).sch with stop := .kill src.kind } ∧ (e.circ n).lu = (s.circ n).lu ∧
        (e.circ n).snd = (s.circ n).snd) ∧
      (d.state = .done ∨ d.state = .abandoned → st'.delivery n = some d ∧ e.circ n = s.circ n)) ∧
    (∀ n, s.noticed st n = true ↔ ∃ d, st.delivery n = some d ∧
      (d.state = .preempted ∨ d.state = .done ∨ d.state = .abandoned) ∧ CircSet.has st.sent n = true ∧
      (s.circ n).lu.state ≠ .off) ∧
    (∀ m, (killReport src t st m).tag = some t ∧ (killReport src t st m).feed = some st.feed ∧
      (killReport src t st m).cls = some st.cls ∧ (killReport src t st m).number = st.number ∧
      (killReport src t st m).valB = BitVec.ofNat 16 m ∧
      ((killReport src t st m).kind = .overrunCut ↔ src = .overrun) ∧
      ((killReport src t st m).kind = .spiked ↔ src = .ring ∨ src = .victim) ∧
      ((killReport src t st m).kind = .killDone ↔ src = .directive ∨ src = .request ∨ src = .supersede)) ∧
    (∀ (v : State) (n : Circ), v.serving t n = true → v.stopOpen n = true → (v.circ n).lu.state = .running →
      State.stopWaited t v n = v.stopHere n)

/-- A kill by feed and number finds the indexed live story, else the newest kill history entry of that key, else nothing
(R65); the entry matched is removed, its circuits that are not OFF are noticed, and KILL_DONE is posted (R69). A numbered
story with a non-empty sent set leaves a history entry, the newest of at most 64, at its retirement, and its index keys go
(R72, R74). A kill with circuits to notice takes the lowest free pool entry, filled from the story with the feed code in
force, and queues it on each; with none free it posts NOTICE_DROPPED and notices none (R100). A released reference frees
the entry when it was the last (R101). -/
def Obligations.NumbersAndNotices : Prop :=
  (∀ (s : State) (src : KillSource) (f : Feed) (k : BitVec 16),
    (∀ t, s.indexFind f k = some t → s.killNumber src f k = (s.killLive src t, true)) ∧
    (s.indexFind f k = none →
      ((∀ h ∈ s.history, ¬(h.feed = f ∧ h.number = k)) → s.killNumber src f k = (s, false)) ∧
      ∀ a h b, s.history = a ++ h :: b → h.feed = f → h.number = k → (∀ x ∈ a, ¬(x.feed = f ∧ x.number = k)) →
        let r := State.makeNotices { s with history := a ++ b } src.kind
          { feed := f, tag := none, number := some k, slug := h.slug }
          (allCircs.filter fun n => CircSet.has h.circs n && (s.circ n).lu.state != .off)
        s.killNumber src f k = (r.1.post
          { kind := .killDone, feed := some f, cls := some h.cls, number := some k,
            valA := wordOf (byteN src.code) 1 0 0, valB := BitVec.ofNat 16 r.2 }, true))) ∧
  (∀ (s : State) (st : Story),
    (st.number = none ∨ st.sent = 0 → s.retireHistory st = s) ∧
    (∀ k, st.number = some k → st.sent ≠ 0 → s.retireHistory st = { s with
      history := { feed := st.feed, number := k, slug := st.slug, cls := st.cls, circs := st.sent }
        :: s.history.take 63 })) ∧
  (∀ (s : State) (t : Tag), s.indexErase t = { s with index := (s.indexErase t).index } ∧
    ∀ e, e ∈ (s.indexErase t).index ↔ e ∈ s.index ∧ e.tag ≠ t) ∧
  (∀ (s : State) (k : NoticeKind) (x : NoticeSource),
    s.makeNotices k x [] = (s, 0) ∧
    ∀ targets : List Circ, targets ≠ [] →
      ((∀ i, s.notice i ≠ none) → s.makeNotices k x targets = (s.post
        { kind := .noticeDropped, feed := some x.feed, tag := x.tag, number := x.number,
          valA := BitVec.ofNat 32 k.code, valB := BitVec.ofNat 16 targets.length }, 0)) ∧
      ∀ i, s.notice i = none → (∀ j, j < i → s.notice j ≠ none) →
        s.makeNotices k x targets =
          (targets.foldl (fun u n => (u.enqueueNew n (.notice i)).sched n) (s.setNotice i (some
            { kind := k, codeA := (s.fcfg x.feed).codeA, codeB := (s.fcfg x.feed).codeB, number := x.number,
              slug := x.slug, refs := targets.length })), targets.length)) ∧
  ∀ (s : State) (i : Slot32),
    (s.notice i = none → s.releaseRef i = s) ∧
    (∀ x, s.notice i = some x → s.releaseRef i =
      s.setNotice i (if x.refs ≤ 1 then none else some { x with refs := x.refs - 1 }))

/-- The account of an enabled feed (R77): with no story in the list the release pointer is the cursor and the occupancy
0; with one, the release pointer is the head's OPEN offset, and the occupancy, between 1 and the window size, leads from
it forward to the cursor. The account keeps these values, and no other account moves. -/
def Obligations.AccountFollowsTheHead : Prop :=
  ∀ (s : State) (f : Feed), 0 < s.fsize f → (s.ctx f).cursor < s.fsize f →
    (s.setAccount f).acct f =
      { s.acct f with release := (s.accountOf f).1, occ := (s.accountOf f).2 } ∧
    (∀ g, g ≠ f → (s.setAccount f).acct g = s.acct g) ∧
    (s.flist f = [] → s.accountOf f = ((s.ctx f).cursor, 0)) ∧
    (∀ t l st, s.flist f = t :: l → s.story t = some st → st.openOff < s.fsize f →
      (s.accountOf f).1 = st.openOff ∧ 0 < (s.accountOf f).2 ∧ (s.accountOf f).2 ≤ s.fsize f ∧
        ((s.accountOf f).1 + (s.accountOf f).2) % s.fsize f = (s.ctx f).cursor)

/-- The warning test (R80): FEED_HIGH when a clear warn state meets the warn level, FEED_LOW when a set one meets the
low level, and nothing otherwise. -/
def Obligations.WarningHysteresis : Prop :=
  ∀ (s : State) (f : Feed),
    ((s.acct f).warn = false → (s.acct f).occ < s.warnLevel f → s.warnTest f = s) ∧
    ((s.acct f).warn = true → s.lowLevel f < (s.acct f).occ → s.warnTest f = s) ∧
    ((s.acct f).warn = false → s.warnLevel f ≤ (s.acct f).occ →
      (s.warnTest f).acct f = { s.acct f with warn := true } ∧
      (s.warnTest f).writer = (s.post (s.levelReport .feedHigh f)).writer) ∧
    ((s.acct f).warn = true → (s.acct f).occ ≤ s.lowLevel f →
      (s.warnTest f).acct f = { s.acct f with warn := false } ∧
      (s.warnTest f).writer = (s.post (s.levelReport .feedLow f)).writer)

/-- The levels of an enabled feed as staged values give them (R76): exact sixteenths of the window, the low level below
the warn level, the spike level not below it and not above the window size. -/
def Obligations.LevelsAreOrdered : Prop :=
  ∀ (s : State) (f : Feed) (m : Memory) (w : Win), (s.fcfg f).win = some w →
    (s.fcfg f).w16 = (stagedLevels m f).w16 → (s.fcfg f).k16 = (stagedLevels m f).k16 →
    16 * s.warnLevel f = s.fsize f * (s.fcfg f).w16 ∧ s.lowLevel f < s.warnLevel f ∧
    16 * s.lowLevel f = s.fsize f * ((s.fcfg f).w16 - 2) ∧
    (∀ l, s.spikeLevel f = some l → 16 * l = s.fsize f * (s.fcfg f).k16 ∧ s.warnLevel f ≤ l ∧ l ≤ s.fsize f) ∧
    (s.spikeLevel f = none ↔ (staged8 m (0x48 + 16 * f.1)).toNat = 0)

/-! ### Queues and preemption (chapter 6) -/

/-- Where an item enters a ranked queue (R90), and that the queue stays ranked (R89). -/
def Obligations.QueuePlaces : Prop :=
  ∀ (s : State) (i : Item) (q : List Item), s.Ranked q →
    s.Ranked (s.insertNew i q) ∧ s.Ranked (s.insertBack i q) ∧
    (∃ a b, q = a ++ b ∧ s.insertNew i q = a ++ i :: b ∧
      (∀ x ∈ a, s.rank x ≤ s.rank i) ∧ ∀ x ∈ b, s.rank i < s.rank x) ∧
    (∃ a b, q = a ++ b ∧ s.insertBack i q = a ++ i :: b ∧
      (∀ x ∈ a, s.rank x < s.rank i) ∧ ∀ x ∈ b, s.rank i ≤ s.rank x)

/-- The preemption point (R94): set by the best rank among the waiting items that are not dry and rank better than the
story in service; none for a notice in service or a story with a stop order. It is stored, and stands so after all that a
circuit does at once after an event (R95).

Where it is reached (R96), in the text with no stop order and no replay: a word boundary after the last character of a word
and at the completion of any newline; a line end at the newlines of the text and at the last one of a head or resume line;
a TAKE mark at the newline it causes, or as it is read at column 0; and a word boundary or line end at once while the
delivery waits for copy. There the preemption is carried out (R97): above column 0 a newline first, at whose completion a
stop order given meanwhile takes it over; then PREEMPTED with its resume offset, the item out of service, back before the
first item of its rank, and selection. The resume offset is the next unsent offset, past the spaces that the lookahead
shows there (the model's deduction, log entry 10). The model's choices: a put-aside sets its dry mark here (log entry 37); a
waiting delivery whose starvation count stands at the limit as well is preempted, without a dry mark (log entry 42); and
the newline of a split word is a line end (log entry 56). -/
def Obligations.PreemptionPoint : Prop :=
  (∀ (s : State) (n : Circ),
    ((s.circ n).sch.stop ≠ .none ∨ (s.circ n).sch.item = none ∨
        (∃ i, (s.circ n).sch.item = some (.notice i)) → s.pointOf n = .none) ∧
    ∀ (t : Tag) (st : Story), (s.circ n).sch.item = some (.story t) → s.story t = some st →
      (s.circ n).sch.stop = .none →
      let better (k : Nat) := ∃ i ∈ (s.circ n).sch.queue, s.dryOn n i = false ∧ s.rank i = k ∧ k < st.cls.1
      (s.pointOf n = .wordBoundary ↔ better 0) ∧
      (s.pointOf n = .lineEnd ↔ better 1 ∧ ¬ better 0) ∧
      (s.pointOf n = .takeOrEnd ↔ better 2 ∧ ¬ better 1 ∧ ¬ better 0) ∧
      (s.pointOf n = .none ↔ ¬ better 2 ∧ ¬ better 1 ∧ ¬ better 0)) ∧
  (∀ (s : State) (n : Circ), ((s.setPoint n).circ n).sch.point = s.pointOf n ∧
    ((s.settleLine n).circ n).sch.point = (s.settleLine n).pointOf n) ∧
  (∀ (s : State) (n : Circ),
    let c := s.circ n
    let p := c.sch.point
    let u (k : NlCause) := (s.updSnd n fun x => x.newlineDone k).dropCapture n k
    (s.leaveOpen n = true ↔ c.sch.item ≠ none ∧ c.sch.stop = .none ∧ c.snd.replay = none ∧ c.snd.phase = .text) ∧
    (s.leaveOpen n = true → c.snd.leave = none →
      (c.atLost = false → s.complete n .wordEnd = if p = .wordBoundary then s.beginLeave n .preempt else s) ∧
      (∀ k, k = .fold ∨ k = .hard ∨ k = .take → s.complete n (.newline k) =
        if p = .wordBoundary ∨ p = .lineEnd ∨ p = .takeOrEnd ∧ k = .take
          then (u k).beginLeave n .preempt else u k) ∧
      s.complete n (.newline .hold) = if p = .wordBoundary then (u .hold).beginLeave n .preempt else u .hold) ∧
    (c.sch.item ≠ none → c.sch.stop = .none → c.snd.replay = none → c.snd.leave = none →
      (c.snd.phase = .resume → s.complete n (.newline .svcLast) =
        let v := (u .svcLast).enterText n
        if p = .wordBoundary ∨ p = .lineEnd then v.beginLeave n .preempt else v) ∧
      ∀ t, c.sch.item = some (.story t) → c.snd.phase = .head → s.complete n (.newline .svcLast) =
        let v := ((u .svcLast).updDelivery t n fun d => { d with headSent := true }).enterText n
        if p = .wordBoundary ∨ p = .lineEnd then v.beginLeave n .preempt else v) ∧
    (∀ t st y, c.sch.item = some (.story t) → s.story t = some st → c.snd.phase = .text →
      textStep (s.textEnv n st) 128 c.snd = (y, .takeRead) →
      let v := s.afterRead n (s.fsize st.feed) y
      s.askTurn n =
        (if v.leaveOpen n = true ∧ (v.circ n).sch.point = .takeOrEnd then v.beginLeave n .preempt else v, true)) ∧
    (s.waitingCopy n = true → c.lu.state = .running → c.sch.stop = .none → c.snd.replay = none →
      s.pointOf n = .wordBoundary ∨ s.pointOf n = .lineEnd →
      (s.setPoint n).actAtOnce n = (s.setPoint n).beginLeave n .preempt)) ∧
  ∀ (s : State) (n : Circ),
    let c := s.circ n
    (∀ k, s.beginLeave n k = if c.snd.column = 0
      then (s.updSnd n fun d => { d with leave := some k }).preemptDone n
      else s.updSnd n fun d => { d with leave := some k, plan := placeNewline (s.ccfg n).fill .leave }) ∧
    (c.sch.stop = .none → s.nlNext n .leave = s.preemptDone n) ∧
    (c.sch.stop ≠ .none → s.nlNext n .leave = s.stopHere n) ∧
    (∀ t st d, c.sch.item = some (.story t) → s.story t = some st → st.delivery n = some d →
      let r := s.resumeOf n st
      s.preemptDone n = (((s.setStory t (some { st.setDelivery n { d with
          state := .preempted, resumeOff := r
          inDirective := c.snd.inDirective && r == c.snd.nextUnsent } with
        dry := if c.snd.leave = some .putAside then st.dry.add n else st.dry })).leaveService n).dropPend n).enqueueBack
          n (.story t) ∧
      (c.snd.nextUnsent = st.textEnd ∨ lookAt c.snd.nextUnsent c.ftc.look ≠ .byte 0x20 → r = c.snd.nextUnsent) ∧
      r = skipSpaces c.ftc.look (s.fsize st.feed) st.textEnd 96 c.snd.nextUnsent) ∧
    (∀ l size e k q, skipSpaces l size e (k + 1) q =
      if q ≠ e ∧ lookAt q l = .byte 0x20 then skipSpaces l size e k ((q + 1) % size) else q) ∧
    (c.sch.item = none → c.sch.stop = .none →
      s.settleLine n = ((((s.setPoint n).select n).setPoint n).setIdle n).fetchTry n)

/-- Selection (R91): a free, ready circuit with items queued takes the first that is not dry, or the first of all if every
one is dry; it enters service with the starvation count 0, no stop order and its Sender at the opening, its delivery
IN_SERVICE, and the others keep their order. Without those conditions nothing is selected. STARVE_LIMIT_REACHED (R98, R99)
with a fresh item queued puts a waiting delivery aside: at column 0 it becomes PREEMPTED with a dry mark and a fresh item
enters service unless a hold is pending; above column 0 the newline is placed first and it is still in service (R97). With
no fresh item it stays in service. Of a delivery that is not waiting, without a limit, or in another state than RUNNING
it changes nothing (the model's choice, log entry 6). -/
def Obligations.SelectionAndPutAside : Prop :=
  ∀ (s : State) (n : Circ),
    ((s.circ n).sch.item = none → (s.circ n).lu.state = .running → (s.circ n).lu.hold = false →
      (s.circ n).sch.queue ≠ [] →
      ∃ i a b, (s.circ n).sch.queue = a ++ i :: b ∧
        (s.dryOn n i = false ∧ (∀ x ∈ a, s.dryOn n x = true) ∨
          (∀ x ∈ (s.circ n).sch.queue, s.dryOn n x = true) ∧ a = []) ∧
        ((s.select n).circ n).sch.item = some i ∧ ((s.select n).circ n).sch.queue = a ++ b ∧
        ((s.select n).circ n).sch.starve = 0 ∧ ((s.select n).circ n).sch.stop = .none ∧
        ((s.select n).circ n).snd.phase = .opening ∧ ((s.select n).circ n).lu = (s.circ n).lu ∧
        (∀ t st d, i = .story t → s.story t = some st → st.delivery n = some d →
          (s.select n).story t = some (st.setDelivery n { d with state := .inService })) ∧
        (∀ u, i ≠ .story u → (s.select n).story u = s.story u) ∧
        (∀ m, m ≠ n → (s.select n).circ m = s.circ m) ∧ (s.select n).writer = s.writer) ∧
    ((s.circ n).sch.item ≠ none ∨ (s.circ n).lu.state ≠ .running ∨ (s.circ n).lu.hold = true ∨
        (s.circ n).sch.queue = [] → s.select n = s) ∧
    (∀ (t : Tag) (st : Story) (d : Delivery), (s.circ n).sch.item = some (.story t) → s.story t = some st →
      st.delivery n = some d → (s.circ n).lu.state = .running → s.waitingCopy n = true →
      (s.ccfg n).starveLim ≠ 0 → (s.circ n).sch.stop = .none → Item.story t ∉ (s.circ n).sch.queue →
      ((s.circ n).snd.replay = none → s.pointOf n ≠ .wordBoundary ∧ s.pointOf n ≠ .lineEnd) →
      (s.hasFresh n = true → (s.circ n).snd.column = 0 →
        ∃ u st' d', exec (.starveLimitReached n) s = .next u ∧ u.story t = some st' ∧ st'.delivery n = some d' ∧
          d'.state = .preempted ∧ d'.chars = d.chars ∧ CircSet.has st'.dry n = true ∧
          ((s.circ n).lu.hold = false →
            ∃ i ∈ (s.circ n).sch.queue, s.dryOn n i = false ∧ (u.circ n).sch.item = some i) ∧
          ((s.circ n).lu.hold = true → (u.circ n).sch.item = none)) ∧
      (s.hasFresh n = true → 0 < (s.circ n).snd.column →
        ∃ u, exec (.starveLimitReached n) s = .next u ∧ u.stories = s.stories ∧
          (u.circ n).sch.item = some (.story t) ∧ (u.circ n).sch.queue = (s.circ n).sch.queue ∧
          (u.circ n).snd = { (s.circ n).snd with
            leave := some .putAside, plan := placeNewline (s.ccfg n).fill .leave })) ∧
    ((s.circ n).lu.state = .running → s.waitingCopy n = true → (s.ccfg n).starveLim ≠ 0 →
      (s.circ n).sch.stop = .none → s.hasFresh n = false →
      ∃ u, exec (.starveLimitReached n) s = .next u ∧ u.stories = s.stories ∧ (u.circ n).snd = (s.circ n).snd ∧
        (u.circ n).sch.item = (s.circ n).sch.item ∧ (u.circ n).sch.queue = (s.circ n).sch.queue) ∧
    (s.waitingCopy n = false ∨ (s.ccfg n).starveLim = 0 ∨ (s.circ n).lu.state ≠ .running →
      ∃ u, exec (.starveLimitReached n) s = .next u ∧ s.SameBlocks u)

/-! ### Packing (chapter 7) -/

/-- A circuit taking up a circuit part clamps its fields; thresholds and limits count in element times, and a starve
limit of 0 is none (R133). -/
def Obligations.LineFieldsClamp : Prop :=
  ∀ (m : Memory) (n : Circ),
    let o := 0x140 + 32 * n.1
    ((stagedCirc m n).enable = true ↔ memRead m o ≠ 0) ∧
    ((stagedCirc m n).invert = true ↔ memRead m (o + 7) ≠ 0) ∧
    ((stagedCirc m n).idleFill = true ↔ memRead m (o + 9) ≠ 0) ∧
    ((stagedCirc m n).restart = true ↔ memRead m (o + 13) ≠ 0) ∧
    (stagedCirc m n).lead = (if 31 < (memRead m (o + 8)).toNat then 31 else (memRead m (o + 8)).toNat) ∧
    (stagedCirc m n).idleCode = (if 250 < (memRead m (o + 10)).toNat then 250 else (memRead m (o + 10)).toNat) ∧
    (stagedCirc m n).brkThresh = (if (memRead m (o + 11)).toNat < 2 then 2 else (memRead m (o + 11)).toNat) ∧
    (stagedCirc m n).clrTime = (if (memRead m (o + 12)).toNat < 2 then 2 else (memRead m (o + 12)).toNat) ∧
    (stagedCirc m n).faultLim = (if staged16 m (o + 14) < 64 then 64 else staged16 m (o + 14)) ∧
    (stagedCirc m n).starveLim = (memRead m (o + 16)).toNat ∧
    (stagedCirc m n).brkLimit = (stagedCirc m n).brkThresh * (stagedCirc m n).elem ∧
    (stagedCirc m n).clrLimit = (stagedCirc m n).clrTime * (stagedCirc m n).elem ∧
    (stagedCirc m n).fltLimit = (stagedCirc m n).faultLim * (stagedCirc m n).elem ∧
    ∀ (s : State) (k : Circ), s.ccfg k = stagedCirc m n → (stagedCirc m n).starveLim = 0 → s.starved k = false

/-- What a staged circuit entry makes of the line (R124, R130, R138): the width is 0 or 16 to 72, the element time 256 to
4095, the carriage fill and the stop code 0 to 3, as written within those ranges and at the nearer end outside them; USOS
is off for 0 only; the character time is 6E plus the stop length; and the idle timeout goes
by 2 s, 15 s and 5 min steps of the 76 800 Hz timebase. -/
def Obligations.LineTimes : Prop :=
  ∀ (m : Memory) (n : Circ),
    let c := stagedCirc m n
    let o := 0x140 + 32 * n.1
    let w := (memRead m (o + 4)).toNat
    let e := (memRead m (o + 2)).toNat + 256 * (memRead m (o + 3)).toNat
    let g := (memRead m (o + 5)).toNat
    let k := (memRead m (o + 1)).toNat
    c.width = (if w = 0 then 0 else if w < 16 then 16 else if 72 < w then 72 else w) ∧
    c.elem = (if e < 256 then 256 else if 4095 < e then 4095 else e) ∧
    c.fill = (if 3 < g then 3 else g) ∧ c.stopCode = (if 3 < k then 3 else k) ∧
    (c.usos = true ↔ memRead m (o + 6) ≠ 0) ∧
    (c.width = 0 ∨ 16 ≤ c.width ∧ c.width ≤ 72) ∧ 256 ≤ c.elem ∧ c.elem ≤ 4095 ∧ c.fill ≤ 3 ∧ c.stopCode ≤ 3 ∧
    (c.stopCode = 0 → c.charTime = 7 * c.elem) ∧
    (c.stopCode = 1 → 2 * c.charTime = 15 * c.elem - c.elem % 2) ∧
    (2 ≤ c.stopCode → c.charTime = 8 * c.elem) ∧
    (c.idleTicks = 0 ↔ c.idleCode = 0) ∧
    (1 ≤ c.idleCode → c.idleCode ≤ 60 → c.idleTicks = c.idleCode * (2 * 76800)) ∧
    (61 ≤ c.idleCode → c.idleCode ≤ 200 → c.idleTicks = (c.idleCode - 60) * (15 * 76800)) ∧
    (201 ≤ c.idleCode → c.idleTicks = (c.idleCode - 200) * (300 * 76800) ∧ c.idleTicks ≤ 50 * (300 * 76800))

/-- The placement of a word (R116): on a circuit with a width the column never passes it; the word's characters are
placed in order; and the word is split only on an empty line it does not fit, in a piece of exactly the width. The four rows
of R116 in full.

The reading of text (R110, R115, R117, R119 to R121). The table of R110. Byte by byte, until something is placed or nothing
is left: a printing character joins the held word; any other byte places a held word first, then, with none held, a space
counts, a line end and a TAKE mark drop the pending spaces and place their newline, a KILL begins a skipped directive and
its digits are passed over, and a skipped byte is passed. The end of the text of a story that is not OPEN places the held
word and is then the story's end. The held word past R117's length is placed, and what is not placed stays held; that a
piece of it ends no word is the model's deduction (log entry 31).

The lines of the part's own: their fields joined (R125), and the composed line packed (R126). The order of a delivery's
phases and of a notice's (R127, R129). That the newline at which the text begins leaves the next unsent offset as the line
origin, and that the opening newline is decided when it is asked for, so that a newline a circuit with no item was handing
serves for it, are the model's choices (log entries 53 and 54). -/
def Obligations.PlacementKeepsTheWidth : Prop :=
  let counted (d : Sender) : Nat := if d.column = 0 ∧ d.hard = false then d.pend else satInc 255 d.pend
  (∀ b : Byte,
    let v := b.toNat
    let print (p : Plane) (i : Nat) : Token := .print { plane := p, code := planeCodes.getD i 0, subst := false }
    let figures : List Byte :=
      [0x31, 0x32, 0x33, 0x34, 0x35, 0x36, 0x37, 0x38, 0x39, 0x30, 0x2D, 0x3F, 0x3A, 0x28, 0x29, 0x2E, 0x2C, 0x27,
        0x3D, 0x2F, 0x2B, 0x22, 0x3B, 0x21, 0x26, 0x2A]
    (v = 0x20 → tokenOf b = .space) ∧ (v = 0x0A → tokenOf b = .newline) ∧ (v = 0x04 → tokenOf b = .take) ∧
    (v = 0x18 → tokenOf b = .kill) ∧ (v < 0x20 → v ≠ 0x0A → v ≠ 0x04 → v ≠ 0x18 → tokenOf b = .skip) ∧
    (0x41 ≤ v → v ≤ 0x5A → tokenOf b = print .ltr (v - 0x41)) ∧
    (0x61 ≤ v → v ≤ 0x7A → tokenOf b = print .ltr (v - 0x61)) ∧
    (0xC0 ≤ v → v ≤ 0xD9 → tokenOf b = print .nat (v - 0xC0)) ∧
    (∀ i, i < 26 → figures.getD i 0 = b → tokenOf b = print .fig i) ∧
    (0x21 ≤ v → ¬(0x41 ≤ v ∧ v ≤ 0x5A) → ¬(0x61 ≤ v ∧ v ≤ 0x7A) → ¬(0xC0 ≤ v ∧ v ≤ 0xD9) → b ∉ figures →
      tokenOf b = .print { plane := .fig, code := planeCodes.getD 11 0, subst := true })) ∧
  (∀ (e : TextEnv) (d : Sender) (k : Nat),
    let past (x : Sender) : Sender := { x with
      readPos := (x.readPos + 1) % e.size
      nextUnsent := if x.held = [] then (x.readPos + 1) % e.size else x.nextUnsent }
    let stuck := heldTooLong e.cfg.width d.held.length
    (stuck = true ↔ e.cfg.width = 0 ∧ 73 ≤ d.held.length ∨ e.cfg.width ≠ 0 ∧ e.cfg.width < d.held.length) ∧
    (d.held = [] → d.replayOver e.size = true → textStep e (k + 1) d = (d, .replayed)) ∧
    (d.held ≠ [] ∨ d.replayOver e.size = false →
      (stuck = true → textStep e (k + 1) d = (d.placeHeld e false, .ready)) ∧
      (stuck = false →
        (d.readPos = e.textEnd →
          (e.isOpen = true → textStep e (k + 1) d = (d, .nothing)) ∧
          (e.isOpen = false → d.held = [] → textStep e (k + 1) d = ({ d with pend := 0 }, .atEnd)) ∧
          (e.isOpen = false → d.held ≠ [] → textStep e (k + 1) d = (d.placeHeld e true, .ready))) ∧
        (d.readPos ≠ e.textEnd → lookAt d.readPos e.look = .missing → textStep e (k + 1) d = (d, .nothing)) ∧
        ∀ b, d.readPos ≠ e.textEnd → lookAt d.readPos e.look = .byte b →
          (d.inDirective = true → isDigit b = true → textStep e (k + 1) d = textStep e k (past d)) ∧
          (d.inDirective = false ∨ isDigit b = false →
            let x : Sender := { d with inDirective := false }
            (∀ c, tokenOf b = .print c →
              textStep e (k + 1) d = textStep e k (past { x with held := d.held ++ [c] })) ∧
            ((∀ c, tokenOf b ≠ .print c) → d.held ≠ [] → textStep e (k + 1) d = (x.placeHeld e true, .ready)) ∧
            (d.held = [] →
              (tokenOf b = .space → textStep e (k + 1) d = textStep e k (past { x with
                pend := counted d, pendOff := if d.pend = 0 then d.readPos else d.pendOff })) ∧
              (tokenOf b = .newline →
                (d.column = 0 → d.bare = true → textStep e (k + 1) d = textStep e k (past { x with pend := 0 })) ∧
                (d.column ≠ 0 ∨ d.bare = false → textStep e (k + 1) d =
                  (past { x with pend := 0, plan := placeNewline e.cfg.fill .hard }, .ready))) ∧
              (tokenOf b = .take →
                (d.column = 0 → textStep e (k + 1) d = (past { x with pend := 0 }, .takeRead)) ∧
                (d.column ≠ 0 → textStep e (k + 1) d =
                  (past { x with pend := 0, plan := placeNewline e.cfg.fill .take }, .ready))) ∧
              (tokenOf b = .kill → textStep e (k + 1) d = textStep e k (past { x with inDirective := true })) ∧
              (tokenOf b = .skip → textStep e (k + 1) d = textStep e k (past x)))))) ∧
    ∀ ended : Bool,
      let p := placeWord e.cfg d.column d.pend ended .fold d.held
      let x := d.placeHeld e ended
      x.plan = p.1 ∧ x.held = d.held.drop p.2 ∧ x.pend = 0 ∧ x.readPos = d.readPos ∧ x.column = d.column ∧
        x.nextUnsent = if d.held.drop p.2 = [] then d.readPos else (d.nextUnsent + p.2) % e.size) ∧
  (∀ (s : State) (n : Circ) (t : Tag) (st : Story), (s.circ n).sch.item = some (.story t) → s.story t = some st →
    let num := codeNumber (s.fcfg st.feed).codeA (s.fcfg st.feed).codeB st.number
    let ph := (s.circ n).snd.phase
    (ph = .head → s.svcLine n = joinFields [classWord st.cls, num, st.slug]) ∧
    (ph = .resume → s.svcLine n = joinFields [s.applied.prefix_, wordResuming, num]) ∧
    (ph = .endLine → s.svcLine n = joinFields [wordEnd, num]) ∧
    (∀ k, ph = .stopLine → (s.circ n).sch.stop = .kill k →
      s.svcLine n = joinFields [s.applied.prefix_, k.word, num, st.slug]) ∧
    (ph = .lostLine → s.svcLine n = joinFields [s.applied.prefix_, wordLost, num, st.slug])) ∧
  (let ascii (l : List Char) : List Byte := l.map fun c => BitVec.ofNat 8 c.toNat
   [classWord 0, classWord 1, classWord 2, classWord 3, classWord 4, wordResuming, wordEnd, wordLost] =
     [ascii ['F', 'L', 'A', 'S', 'H'], ascii ['B', 'U', 'L', 'L', 'E', 'T', 'I', 'N'],
       ascii ['U', 'R', 'G', 'E', 'N', 'T'], ascii ['R', 'O', 'U', 'T', 'I', 'N', 'E'],
       ascii ['D', 'E', 'F', 'E', 'R', 'R', 'E', 'D'], ascii ['R', 'E', 'S', 'U', 'M', 'I', 'N', 'G'],
       ascii ['E', 'N', 'D'], ascii ['L', 'O', 'S', 'T']] ∧
   [NoticeKind.kill, .superseded, .spiked, .lost].map NoticeKind.word =
     [ascii ['K', 'I', 'L', 'L'], ascii ['S', 'U', 'P', 'E', 'R', 'S', 'E', 'D', 'E', 'D'],
       ascii ['S', 'P', 'I', 'K', 'E', 'D'], ascii ['L', 'O', 'S', 'T']]) ∧
  (∀ a b : Byte, codeNumber a b none = [a, b] ∧ ∀ m, codeNumber a b (some m) = a :: b :: decimal m.toNat) ∧
  (∀ k, k < 100000 → (∀ x ∈ decimal k, isDigit x = true) ∧ digitsValue (decimal k) = k ∧
    (k ≠ 0 → (decimal k).head? ≠ some 0x30)) ∧ decimal 0 = [0x30] ∧
  (joinFields [] = [] ∧ (∀ fs, joinFields ([] :: fs) = joinFields fs) ∧
    ∀ f fs, f ≠ [] → joinFields (f :: fs) = if joinFields fs = [] then f else f ++ 0x20 :: joinFields fs) ∧
  (∀ b : Byte, (∀ c, tokenOf b = .print c → svcTok b = .print { c with subst := false }) ∧
    (tokenOf b = .space → svcTok b = .space) ∧
    ((∀ c, tokenOf b ≠ .print c) → tokenOf b ≠ .space → svcTok b = .skip)) ∧
  (∀ (s : State) (n : Circ), s.OnlyCirc (s.beginSvc n) n ∧
    (s.beginSvc n).circ n = { s.circ n with snd := { (s.circ n).snd with
      svc := some ((s.svcLine n).map svcTok), origin := .svc (s.svcKind n), hard := false, pend := 0
      stopBegun := (s.circ n).snd.stopBegun || (s.circ n).snd.phase == .stopLine } }) ∧
  (∀ (cfg : CircCfg) (d : Sender) (ts : List SvcTok) (c : PChar),
    svcStep cfg d [] = { d with svc := some [], pend := 0, plan := placeNewline cfg.fill .svcLast } ∧
    svcStep cfg d (.space :: ts) = svcStep cfg { d with pend := counted d } ts ∧
    svcStep cfg d (.skip :: ts) = svcStep cfg d ts ∧
    let p := placeWord cfg d.column d.pend true .svcFold (c :: leadingWord ts)
    svcStep cfg d (.print c :: ts) =
      { d with plan := p.1, pend := 0, svc := some ((.print c :: ts).drop p.2) }) ∧
  (∀ (s : State) (n : Circ) (t : Tag) (st : Story) (d : Delivery), (s.circ n).sch.item = some (.story t) →
    s.story t = some st → st.delivery n = some d →
    let x := (s.circ n).snd
    let fill := (s.ccfg n).fill
    let first : Phase := if d.headSent then .resume else .head
    let text (y : Sender) : Sender := { y with
      phase := .text, svc := none, readPos := y.nextUnsent, pend := 0, origin := .text y.nextUnsent
      originDir := y.inDirective }
    (x.phase = .opening →
      (x.column = 0 → s.askTurn n = (s.updSnd n fun y => { y with phase := first }, true)) ∧
      (x.column ≠ 0 → s.askTurn n = (s.updSnd n fun y => { y with plan := placeNewline fill .opening }, false)) ∧
      s.nlNext n .opening = s.updSnd n fun y => { y with phase := first }) ∧
    (x.phase = .head ∨ x.phase = .resume ∨ x.phase = .endLine ∨ x.phase = .stopLine ∨ x.phase = .lostLine →
      (x.svc = none → s.askTurn n = (s.beginSvc n, true)) ∧
      ∀ ts, x.svc = some ts → s.askTurn n = (s.updSnd n fun y => svcStep (s.ccfg n) y ts, false)) ∧
    (x.phase = .head → s.nlNext n .svcLast =
      (s.setStory t (some (st.setDelivery n { d with headSent := true }))).updSnd n text) ∧
    (x.phase = .resume → s.nlNext n .svcLast = s.updSnd n text) ∧
    (x.phase = .text → ∀ y g, textStep (s.textEnv n st) 128 x = (y, g) →
      let u := s.afterRead n (s.fsize st.feed) y
      (g = .ready → s.askTurn n = (u, false)) ∧
      (g = .nothing → s.askTurn n = (u, u.actsAtOnce n)) ∧
      (g = .atEnd → (u.circ n).sch.stop = .none ∨ st.state = .open_ ∨ st.state = .closed →
        s.askTurn n = (u.updSnd n fun z => { z with phase := .closing }, true))) ∧
    (x.phase = .closing →
      (x.column = 0 → s.askTurn n = (s.updSnd n fun y => { y with phase := .endLine, svc := none }, true)) ∧
      (x.column ≠ 0 → s.askTurn n = (s.updSnd n fun y => { y with plan := placeNewline fill .closing }, false))) ∧
    s.nlNext n .closing = (s.updSnd n fun y => { y with phase := .endLine, svc := none }) ∧
    (x.phase = .endLine → s.nlNext n .svcLast = s.updSnd n fun y => { y with phase := .blank, svc := none }) ∧
    (x.phase = .blank → s.askTurn n =
      (s.updSnd n fun y => { y with plan := [{ sym := .lf, mark := .blankEnd }] }, false))) ∧
  (∀ (s : State) (n : Circ) (i : Slot32) (x : Notice), (s.circ n).sch.item = some (.notice i) →
    s.notice i = some x →
    s.svcLine n = joinFields [s.applied.prefix_, x.kind.word, codeNumber x.codeA x.codeB x.number, x.slug] ∧
    ((s.circ n).snd.phase = .opening →
      ((s.circ n).snd.column = 0 → s.askTurn n = (s.updSnd n fun y => { y with phase := .notice }, true)) ∧
      ((s.circ n).snd.column ≠ 0 → s.askTurn n =
        (s.updSnd n fun y => { y with plan := placeNewline (s.ccfg n).fill .opening }, false)) ∧
      s.nlNext n .opening = s.updSnd n fun y => { y with phase := .notice }) ∧
    ((s.circ n).snd.phase = .notice →
      ((s.circ n).snd.svc = none → s.askTurn n = (s.beginSvc n, true)) ∧
      (∀ ts, (s.circ n).snd.svc = some ts →
        s.askTurn n = (s.updSnd n fun y => svcStep (s.ccfg n) y ts, false)) ∧
      s.nlNext n .svcLast = (s.leaveService n).releaseRef i)) ∧
  ∀ (cfg : CircCfg) (c sp : Nat) (ended : Bool) (why : NlCause) (w : List PChar),
    (cfg.width = 0 ∨ c + sp + w.length ≤ cfg.width →
      placeWord cfg c sp ended why w = (placeSpaces sp ++ placeChars ended w, w.length)) ∧
    (cfg.width ≠ 0 → cfg.width < c + sp + w.length →
      (0 < c → placeWord cfg c sp ended why w = (placeNewline cfg.fill why, 0)) ∧
      (c = 0 → w.length ≤ cfg.width → placeWord cfg c sp ended why w = (placeChars ended w, w.length)) ∧
      (c = 0 → cfg.width < w.length → placeWord cfg c sp ended why w =
        (placeChars false (w.take cfg.width) ++ placeNewline cfg.fill why, cfg.width))) ∧
    printsOf (placeWord cfg c sp ended why w).1 = w.take (placeWord cfg c sp ended why w).2 ∧
    (cfg.width = 0 → (placeWord cfg c sp ended why w).2 = w.length ∧
      columnAfter c (placeWord cfg c sp ended why w).1 = c + sp + w.length) ∧
    (0 < cfg.width → c ≤ cfg.width →
      (∀ k, columnAfter c ((placeWord cfg c sp ended why w).1.take k) ≤ cfg.width) ∧
      ((placeWord cfg c sp ended why w).2 < w.length →
        (placeWord cfg c sp ended why w).2 = 0 ∧ 0 < c ∧ cfg.width < c + sp + w.length ∨
        (placeWord cfg c sp ended why w).2 = cfg.width ∧ c = 0 ∧ cfg.width < w.length))

/-- The law of the planes (R111 to R113): a printer that stands in the tracked plane, or anywhere while the plane is
UNKNOWN, prints exactly the planned characters, each in its own plane, through every shift, fill and space. -/
def Obligations.PrinterFollowsThePlanes : Prop :=
  ∀ (cfg : CircCfg) (d : Sender) (p : Option Plane) (k : Nat),
    (∀ x ∈ d.plan, ∀ c, x.sym = .print c → c.code ∈ planeCodes) →
    d.plane = none ∨ d.plane = p → 2 * d.plan.length ≤ k →
    printerMakes cfg.usos p (handed cfg k d) = meant d.plan

/-- The completion of a character (R128) and the end of a delivery. Inside a word its delivery counts it, a character of
the head line or the text puts the circuit in the sent set (R63), and no other story is touched; a newline's last character
counts a line too, and what it completes follows. SLOT_COMPLETE in RUNNING records the character so, and goes on to the
fault or the break found, or to the next slot (R134, R148, R152).

The blank line's last character (R105, R156): DONE, DELIVERY_DONE, a notice here for a kill stop that lapsed in the sent
set, the item out of service, the retirement test. The stop place (R155): the last character of a word and a newline's,
where a stop order is open; the held word and the pending spaces go, and a newline is placed above column 0; after it, or
at once at column 0, a kill stop in the sent set goes on to its stop line, and any other ends; the stop line's last newline
ends the stop. The end of a stop: ABANDONED with its report (R106), the item out of service, the retirement test. In HELD
nothing is handed: ABANDONED, a notice here for a kill stop in the sent set, and the capture record goes (R104, R155). A
notice for one circuit takes the lowest free pool entry, or posts NOTICE_DROPPED (R100). The order of the reports of one
such event, that a stop of its own begun goes on after HELD, and that a stop in a restarted service line lets the capture record
go at the next newline (Capture.stopped) are the model's deductions (log entries 14, 16 and 17). So is
that the sent set is tested for the stop line at the stop, not at the kill (log entry 52). -/
def Obligations.CharacterIsCounted : Prop :=
  (∀ (s : State) (n : Circ) (c : SentChar) (t : Tag) (st : Story) (d : Delivery),
    c.owner = some t → s.story t = some st → st.delivery n = some d →
    (c.mark = .none →
      (∃ st', (s.recordChar n c).story t = some st' ∧
        st'.delivery n = some { d with chars := satInc 0xFFFFFFFF d.chars } ∧
        st'.sent = (if c.headText then st.sent.add n else st.sent) ∧ st'.state = st.state) ∧
      ∀ u, u ≠ t → (s.recordChar n c).story u = s.story u) ∧
    s.recordChar n c = (s.setStory t (some { st.setDelivery n { d with
        chars := satInc 0xFFFFFFFF d.chars
        lines := match c.mark with
          | .newline _ => satInc 65535 d.lines
          | _ => d.lines } with
      sent := if c.headText then st.sent.add n else st.sent })).complete n c.mark) ∧
  (∀ (s : State) (n : Circ) (c : SentChar) (e : Nat), (s.circ n).lu.state = .running →
    (s.circ n).lu.slot = some { kind := .char c, elapsed := e } →
    let u := ((s.updLu n fun l => { l with slot := none }).recordChar n c).starveTell n
    exec (.slotComplete n) s = .next (if (u.circ n).lu.fltDet then u.enterFault n
      else if (u.circ n).lu.brkDet then u.enterBroken n else (u.settleLine n).nextSlotOrHold n).settleBus) ∧
  (∀ (s : State) (n : Circ) (t : Tag) (st : Story) (d : Delivery), (s.circ n).sch.item = some (.story t) →
    s.story t = some st → st.delivery n = some d →
    let noticed (u : State) : State := match (s.circ n).sch.stop with
      | .kill k => if CircSet.has st.sent n then u.noticeHere n k (sourceOf t st) else u
      | _ => u
    let doneRep : Report :=
      { kind := .deliveryDone, feed := some st.feed, circ := some n, tag := some t, cls := some st.cls,
        number := st.number, valA := BitVec.ofNat 32 d.chars, valB := BitVec.ofNat 16 d.lines }
    let goneRep : Report :=
      { kind := .deliveryAbandoned, feed := some st.feed, circ := some n, tag := some t, cls := some st.cls,
        number := st.number, valA := BitVec.ofNat 32 d.chars, valB := BitVec.ofNat 16 d.subs }
    let gone := (s.setStory t (some (st.setDelivery n { d with state := .abandoned }))).post goneRep
    s.complete n .blankEnd = ((noticed ((s.setStory t (some
      (st.setDelivery n { d with state := .done }))).post doneRep)).leaveService n).retireTest t ∧
    s.endStop n = (gone.leaveService n).retireTest t ∧
    s.silentStop n =
      (((noticed gone).leaveService n).updLu n fun l => { l with capture := none }).retireTest t ∧
    (∀ k, (s.circ n).sch.stop = .kill k → CircSet.has st.sent n = true → s.stopLineOrEnd n =
      s.updSnd n fun x => { x with phase := .stopLine, svc := none, plan := [] }) ∧
    ((s.circ n).sch.stop = .none ∨ (s.circ n).sch.stop = .clear ∨ CircSet.has st.sent n = false →
      s.stopLineOrEnd n = s.endStop n) ∧
    ((s.circ n).snd.phase = .stopLine → s.nlNext n .svcLast = s.endStop n) ∧
    s.nlNext n .stop = s.stopLineOrEnd n) ∧
  (∀ (s : State) (n : Circ),
    let u := ((s.updSnd n fun x => { x with
        held := [], pend := 0, plan := [], svc := none, inDirective := false, leave := none }).updSch n fun x =>
      { x with stopMet := false }).updLu n fun l => { l with capture := l.capture.map Capture.stopped }
    ((s.circ n).snd.column = 0 → s.stopHere n = u.stopLineOrEnd n) ∧
    ((s.circ n).snd.column ≠ 0 → s.stopHere n = u.updSnd n fun x => { x with
      phase := .stopNewline, stopBegun := true, plan := placeNewline (s.ccfg n).fill .stop }) ∧
    (s.stopOpen n = true ↔ (s.circ n).sch.stop ≠ .none ∧ (s.circ n).snd.replay = none ∧
      (s.circ n).snd.phase ≠ .stopNewline ∧ (s.circ n).snd.phase ≠ .stopLine) ∧
    (s.stopOpen n = true → s.complete n .wordEnd = s.stopHere n ∧
      ∀ k, k = .fold ∨ k = .hard ∨ k = .take ∨ k = .svcFold →
        s.complete n (.newline k) = ((s.updSnd n fun x => x.newlineDone k).dropCapture n k).stopHere n) ∧
    ((s.circ n).lu.state = .held → (s.circ n).sch.stop ≠ .none → (s.circ n).snd.replay = none →
      (s.circ n).snd.stopBegun = false → s.actAtOnce n = (s.silentStop n).dropPend n)) ∧
  ∀ (s : State) (n : Circ) (k : NoticeKind) (x : NoticeSource),
    ((s.leaveService n).circ n).sch = { (s.circ n).sch with item := none, stop := .none, stopMet := false } ∧
    ((s.leaveService n).circ n).lu = (s.circ n).lu ∧ ((s.leaveService n).circ n).ftc.look = [] ∧
    ((s.leaveService n).circ n).snd.column = (s.circ n).snd.column ∧
    ((s.leaveService n).circ n).snd.plane = (s.circ n).snd.plane ∧ s.OnlyCirc (s.leaveService n) n ∧
    (∀ f, (s.circ n).ftc.fetch = some f →
      ((s.leaveService n).circ n).ftc.fetch = some { f with fate := .dropStale }) ∧
    ((∀ i, s.notice i ≠ none) → s.noticeHere n k x = s.post
      { kind := .noticeDropped, feed := some x.feed, tag := x.tag, number := x.number,
        valA := BitVec.ofNat 32 k.code, valB := 1 }) ∧
    ∀ i, s.notice i = none → (∀ j, j < i → s.notice j ≠ none) →
      s.noticeHere n k x = (s.setNotice i (some
        { kind := k, codeA := (s.fcfg x.feed).codeA, codeB := (s.fcfg x.feed).codeB, number := x.number,
          slug := x.slug, refs := 1 })).enqueueNew n (.notice i)

/-! ### The line (chapters 8 and 9) -/

/-- SLOT_COMPLETE: a lead slot with more to come begins the next lead slot, and the last one leads to RUNNING, or to HELD
with a hold pending (R135, R136); an idle RUNNING circuit begins a fill or a mark slot; a hold on an idle circuit at
column 0 takes effect (R140); a RUNNING circuit with no hold pending and no break or fault found goes on with a slot,
whatever the slot carried (R134). Without a slot nothing happens (the model's choice, log entry 6). -/
def Obligations.SlotCompletes : Prop :=
  ∀ (s : State) (n : Circ),
    ((s.circ n).lu.slot = none → ∃ t, exec (.slotComplete n) s = .next t ∧ s.SameBlocks t) ∧
    (∀ sl k, (s.circ n).lu.slot = some sl → (s.circ n).lu.state = .lead → (s.circ n).lu.fltDet = false →
      (s.circ n).lu.brkDet = false → (s.circ n).lu.leadLeft = k + 2 →
      ∃ t, exec (.slotComplete n) s = .next t ∧
        (t.circ n).lu = { (s.circ n).lu with leadLeft := k + 1, slot := some { kind := .leadChar, elapsed := 0 } } ∧
        (∀ m, m ≠ n → t.circ m = s.circ m) ∧ t.stories = s.stories ∧ t.writer = s.writer) ∧
    (∀ sl, (s.circ n).lu.slot = some sl → (s.circ n).lu.state = .lead → (s.circ n).lu.fltDet = false →
      (s.circ n).lu.brkDet = false → (s.circ n).lu.leadLeft ≤ 1 →
      ((s.circ n).lu.hold = false → ∃ t, exec (.slotComplete n) s = .next t ∧
        (t.circ n).lu.state = .running ∧ (t.circ n).lu.slot.isSome = true) ∧
      ((s.circ n).lu.hold = true → vget s.mirror.pendCirc n = false → ∃ t, exec (.slotComplete n) s = .next t ∧
        (t.circ n).lu.state = .held ∧ (t.circ n).lu.slot = none ∧ (t.circ n).lu.hold = false)) ∧
    (∀ sl, (s.circ n).lu.slot = some sl → (s.circ n).lu.state = .running → (s.circ n).lu.fltDet = false →
      (s.circ n).lu.brkDet = false → (s.circ n).lu.hold = false → vget s.mirror.pendCirc n = false →
      ∃ t, exec (.slotComplete n) s = .next t ∧ (t.circ n).lu.state = .running ∧
        (t.circ n).lu.slot.isSome = true) ∧
    (∀ sl, (s.circ n).lu.slot = some sl → (s.circ n).lu.state = .running →
      sl.kind = .mark ∨ (∃ c, sl.kind = .fill c) →
      (s.circ n).lu.fltDet = false → (s.circ n).lu.brkDet = false → s.isIdle n = true →
      (s.circ n).sch.stop = .none → (s.circ n).snd.plan = [] → (s.circ n).snd.column = 0 →
      vget s.mirror.pendCirc n = false →
      ∃ t, exec (.slotComplete n) s = .next t ∧ (∀ m, m ≠ n → t.circ m = s.circ m) ∧
        t.stories = s.stories ∧ t.writer = s.writer ∧
        ((s.circ n).lu.hold = true → (t.circ n).lu.state = .held ∧ (t.circ n).lu.slot = none ∧
          (t.circ n).lu.hold = false) ∧
        ((s.circ n).lu.hold = false → (t.circ n).lu.state = .running ∧
          ((s.ccfg n).idleFill = false → (t.circ n).lu.slot = some { kind := .mark, elapsed := 0 }) ∧
          ((s.ccfg n).idleFill = true → (t.circ n).lu.slot =
            some { kind := .fill (fillCode (s.circ n).snd.plane), elapsed := 0 } ∧
            (t.circ n).snd.plane = some ((s.circ n).snd.plane.getD .ltr))))

/-- IDLE_TIMEOUT of an idle circuit cuts its slot short, drops the motor and enters STOPPED with the plane UNKNOWN (R138);
a circuit part pending there is taken or dropped, and the motor stays off (R143). Of a circuit whose timer does not run it
changes nothing (the model's choice, log entry 6). The STOP-MOTOR request does the same to an idle circuit's line and
nothing to any other circuit (R142). That a break or a fault detected in the slot cut short stays detected through STOPPED
is the model's choice (log entry 40), and so is that a capture record still held stays (log entry 38). -/
def Obligations.IdleTimeoutStops : Prop :=
  ∀ (s : State) (n : Circ),
    (s.isIdle n = true → (s.circ n).lu.idle.isSome = true → (s.ccfg n).idleTicks ≠ 0 →
      ∃ t, exec (.idleTimeout n) s = .next t ∧
        (t.circ n).lu.motor = false ∧ (t.circ n).lu.slot = none ∧
        (vget s.mirror.pendCirc n = false →
          (t.circ n).lu = { (s.circ n).lu with state := .stopped, motor := false, slot := none, idle := none } ∧
          (t.circ n).snd.plane = none ∧ (t.circ n).snd.column = (s.circ n).snd.column ∧
          (∀ m, m ≠ n → t.circ m = s.circ m) ∧ t.stories = s.stories ∧ t.writer = s.writer) ∧
        (vget s.mirror.pendCirc n = true → t.ccfg n = stagedCirc s.mirror.staging n ∧
          vget t.mirror.pendCirc n = false)) ∧
    ((s.circ n).lu.idle = none ∨ (s.circ n).lu.state ≠ .running ∨ (s.ccfg n).idleTicks = 0 →
      ∃ t, exec (.idleTimeout n) s = .next t ∧ s.SameBlocks t) ∧
    (s.isIdle n = false → s.stopMotorReq n = s) ∧
    (s.isIdle n = true → vget s.mirror.pendCirc n = false →
      ((s.stopMotorReq n).circ n).lu =
        { (s.circ n).lu with state := .stopped, motor := false, slot := none, idle := none } ∧
      ((s.stopMotorReq n).circ n).snd.plane = none ∧ (s.stopMotorReq n).stories = s.stories) ∧
    (s.isIdle n = true → vget s.mirror.pendCirc n = true →
      ((s.stopMotorReq n).circ n).lu.motor = false ∧
      (s.stopMotorReq n).ccfg n = stagedCirc s.mirror.staging n)

/-- BREAK_DETECTED: in LEAD and RUNNING it is recorded and the slot in progress goes on; in HELD the circuit enters
BROKEN with a capture record (R148). In every other state, and while the input reads mark, nothing happens, and the space
run is raised to the limit the command names: both the model's choice (log entry 6). -/
def Obligations.BreakIsDetected : Prop :=
  ∀ (s : State) (n : Circ),
    (s.readsMarkOn n = true ∨ (s.circ n).lu.state.breakable = false →
      ∃ t, exec (.breakDetected n) s = .next t ∧ s.SameBlocks t) ∧
    (s.readsMarkOn n = false → (s.circ n).lu.state = .lead ∨ (s.circ n).lu.state = .running →
      ∃ t, exec (.breakDetected n) s = .next t ∧
        (t.circ n).lu = { (s.circ n).lu with
          spaceRun := max (s.circ n).lu.spaceRun (s.ccfg n).brkLimit, brkDet := true } ∧
        (∀ m, m ≠ n → t.circ m = s.circ m) ∧ t.stories = s.stories ∧ t.writer = s.writer) ∧
    (s.readsMarkOn n = false → (s.circ n).lu.state = .held →
      ∃ t, exec (.breakDetected n) s = .next t ∧ (t.circ n).lu.state = .broken ∧ (t.circ n).lu.slot = none ∧
        (t.circ n).lu.motor = (s.circ n).lu.motor ∧
        (t.circ n).lu.capture = some
          { from_ := .held, item := (s.circ n).sch.item, origin := (s.circ n).snd.origin,
            nextUnsent := (s.circ n).snd.nextUnsent, column := (s.circ n).snd.column,
            lineCount := (s.circ n).snd.lineCount, holdTaken := false, restartDue := false, drop := .keep } ∧
        t.stories = s.stories ∧
        t.writer = (s.post
          { kind := .circuitBreak, circ := some n, tag := (s.circ n).sch.tag, valA := 4,
            valB := BitVec.ofNat 16 (s.circ n).snd.column }).writer)

/-- BREAK_CLEAR: a BROKEN circuit whose input reads mark goes to HELD if a hold was taken or pending or the break came
from HELD, and takes a pending circuit part there; else to LEAD if it came from LEAD, or through a lead of no slots to
RUNNING; else to RUNNING (R150). CIRCUIT_CLEAR carries the state entered and the line restart setting. In HELD the restart
or continuation becomes due, and RELEASE makes it before RUNNING is entered; in RUNNING it is made at once, by the setting
then applied (R150). The continuation hands nothing. The restart (R151): a newline with an item or a column above 0; from
a ring offset the lookahead is emptied, a fetch in flight is marked to be discarded, and the text is read again from there
up to the captured next unsent offset; a service line is composed again; without an origin the phase goes on; and the
capture record goes at the first newline after that: of a replay, not at the restart newline before it (R150, R151). In any
other state, or while the input reads space, nothing happens (the model's choice, log entry 6); an origin without an item
names nothing (log entry 14). The model's choices too: the restart newline takes the place of an opening newline in
progress (log entry 58), and a continuation keeps a replay in progress with its target (log entry 59). -/
def Obligations.BreakClears : Prop :=
  (∀ (s : State) (n : Circ),
    let clear (into : Nat) : Report :=
      { kind := .circuitClear, circ := some n, tag := (s.circ n).sch.tag, valA := BitVec.ofNat 32 into,
        valB := if (s.ccfg n).restart then 1 else 0 }
    ((s.circ n).lu.state ≠ .broken ∨ s.readsMarkOn n = false →
      ∃ t, exec (.breakClear n) s = .next t ∧ s.SameBlocks t) ∧
    (∀ c, (s.circ n).lu.state = .broken → s.readsMarkOn n = true → (s.circ n).lu.capture = some c →
      ∃ t, exec (.breakClear n) s = .next t ∧
        ((s.circ n).lu.hold = true ∨ c.holdTaken = true ∨ c.from_ = .held →
          (vget s.mirror.pendCirc n = false → (t.circ n).lu.state = .held ∧ (t.circ n).lu.slot = none ∧
            (t.circ n).lu.hold = false ∧
            ((s.circ n).sch.stop = .none →
              (t.circ n).lu.capture = some { c with restartDue := true } ∧ t.writer = (s.post (clear 4)).writer)) ∧
          (vget s.mirror.pendCirc n = true → t.ccfg n = stagedCirc s.mirror.staging n ∧
            vget t.mirror.pendCirc n = false)) ∧
        ((s.circ n).lu.hold = false → c.holdTaken = false → c.from_ ≠ .held → c.from_ ≠ .lead →
          t = (State.enterRunning (State.takeUp (((s.updLu n fun l =>
              { l with markRun := max l.markRun (s.ccfg n).clrLimit }).updSnd n fun d =>
              { d with plane := none }).post (clear 3)) n) n).settleBus ∧
          (t.circ n).lu.state = .running ∧ (t.circ n).lu.slot.isSome = true) ∧
        ((s.circ n).lu.hold = false → c.holdTaken = false → c.from_ = .lead → 0 < (s.ccfg n).lead →
          (t.circ n).lu.state = .lead ∧ (t.circ n).lu.leadLeft = (s.ccfg n).lead ∧
          (t.circ n).lu.capture = none ∧ (t.circ n).snd.plane = none ∧ t.writer = (s.post (clear 2)).writer) ∧
        ((s.circ n).lu.hold = false → c.holdTaken = false → c.from_ = .lead → (s.ccfg n).lead = 0 →
          (t.circ n).lu.state = .running ∧ (t.circ n).lu.slot.isSome = true))) ∧
  (∀ (s : State) (n : Circ),
    s.enterRunning n = State.beginSlot (State.settleLine (s.updLu n fun l => { l with state := .running }) n) n ∧
    ((s.circ n).lu.state = .held → (∀ c, (s.circ n).lu.capture = some c → c.restartDue = false) →
      s.releaseReq n = s.enterRunning n) ∧
    (∀ c, (s.circ n).lu.state = .held → (s.circ n).lu.capture = some c → c.restartDue = true →
      s.releaseReq n = (s.takeUp n).enterRunning n) ∧
    ∀ k c, (s.circ n).lu.capture = some c →
      s.complete n (.newline k) = State.lineTest (State.nlNext (State.dropCapture (State.replayCheck
        (s.updSnd n fun x => x.newlineDone k) n) n k) n k) n k ∧
      ((s.dropCapture n k).circ n).lu.capture =
        if c.drop = .atNewline ∨ c.drop = .afterReplay ∧ (s.circ n).snd.replay = none ∧ k ≠ .restart ∨
          c.drop = .atServiceEnd ∧ k = .svcLast then none else some c) ∧
  ∀ (s : State) (n : Circ) (c : Capture), (s.circ n).lu.capture = some c →
    let x := s.circ n
    let held (d : CapDrop) : LineUnit := { x.lu with capture := some { c with drop := d, restartDue := false } }
    let due := x.sch.item ≠ none ∨ x.snd.column ≠ 0
    let nl := if x.sch.item ≠ none ∨ x.snd.column ≠ 0 then placeNewline (s.ccfg n).fill .restart else []
    s.OnlyCirc (s.takeUp n) n ∧
    ((s.ccfg n).restart = false → (s.takeUp n).circ n = { x with lu := held .atNewline }) ∧
    ((s.ccfg n).restart = true →
      (∀ o, x.sch.item ≠ none → c.origin = .text o → (s.takeUp n).circ n = { x with
        lu := held .afterReplay
        snd := { x.snd with
          plan := nl, phase := .text, svc := none, readPos := o, nextUnsent := o, held := []
          inDirective := x.snd.originDir, pend := 0, stopBegun := false, replay := some (o, c.nextUnsent) }
        ftc := { Fetcher.discard x.ftc .dropStale with look := [], nextFetch := o / 16 * 16 } }) ∧
      (∀ k, x.sch.item ≠ none → c.origin = .svc k → (s.takeUp n).circ n = { x with
        lu := held .atServiceEnd, snd := { x.snd with plan := nl, phase := k.phase, svc := none } }) ∧
      (x.sch.item = none ∨ c.origin = .none →
        (due → (s.takeUp n).circ n = { x with lu := held .atNewline, snd := { x.snd with plan := nl } }) ∧
        (¬due → (s.takeUp n).circ n = { x with
          lu := { x.lu with capture := none }, snd := { x.snd with plan := [] } })))

/-- LOOP_FAULT: in LEAD and RUNNING it is recorded and the slot in progress goes on, whose completion enters FAULT; in
STOPPED, HELD and BROKEN the circuit enters FAULT at once, with the motor off and no capture record (R152), and takes a
pending circuit part there (R143). A hold pending, a hold taken during the break and a break from HELD leave hold pending
(R152; the model's reading, log entry 18), and CIRCUIT_FAULT carries the state left and the queue's length. The item in
service (the table of R152): a notice goes back to the queue; a stopping story is ABANDONED as in HELD (R104); any other
story is PREEMPTED and goes back, with its resume offset at the line origin, or unchanged in the opening lines, or at the
text end in the closing ones, or at the next unsent offset, and its head-sent flag cleared in its head line. In OFF and
FAULT, and while the input reads mark, nothing happens, and the space run is raised to the limit the command names: both
the model's choice (log entry 6); and so is the lead remaining, 0 in FAULT (log entry 44). -/
def Obligations.LoopFaultIsTaken : Prop :=
  (∀ (s : State) (n : Circ),
    (s.readsMarkOn n = true ∨ (s.circ n).lu.state = .off ∨ (s.circ n).lu.state = .fault →
      ∃ t, exec (.loopFault n) s = .next t ∧ s.SameBlocks t) ∧
    (s.readsMarkOn n = false → (s.circ n).lu.state = .lead ∨ (s.circ n).lu.state = .running →
      ∃ t, exec (.loopFault n) s = .next t ∧
        (t.circ n).lu = { (s.circ n).lu with
          spaceRun := max (s.circ n).lu.spaceRun (s.ccfg n).fltLimit, fltDet := true } ∧
        (∀ m, m ≠ n → t.circ m = s.circ m) ∧ t.stories = s.stories ∧ t.writer = s.writer) ∧
    (s.readsMarkOn n = false → (s.circ n).lu.state = .stopped ∨ (s.circ n).lu.state = .held ∨
        (s.circ n).lu.state = .broken →
      ∃ t, exec (.loopFault n) s = .next t ∧
        t = (State.enterFault (s.updLu n fun l =>
          { l with spaceRun := max l.spaceRun (s.ccfg n).fltLimit, fltDet := true }) n).settleBus ∧
        (vget s.mirror.pendCirc n = false → (t.circ n).lu.state = .fault ∧ (t.circ n).lu.motor = false ∧
          (t.circ n).lu.slot = none ∧ (t.circ n).lu.capture = none ∧
          ((t.circ n).lu.hold = true ↔ (s.circ n).lu.hold = true ∨
            (s.circ n).lu.state ≠ .stopped ∧ ∃ c, (s.circ n).lu.capture = some c ∧
              (c.holdTaken = true ∨ c.from_ = .held))) ∧
        (vget s.mirror.pendCirc n = true → t.ccfg n = stagedCirc s.mirror.staging n ∧
          vget t.mirror.pendCirc n = false)) ∧
    (∀ sl, (s.circ n).lu.slot = some sl → (s.circ n).lu.state = .lead → (s.circ n).lu.fltDet = true →
      exec (.slotComplete n) s = .next (State.enterFault (s.updLu n fun l =>
        { l with leadLeft := l.leadLeft - 1, slot := none }) n).settleBus)) ∧
  (∀ (s : State) (n : Circ), vget s.mirror.pendCirc n = false →
    let l := (s.circ n).lu
    let u := (State.updSnd (State.faultItem (s.updLu n fun l =>
      { l with
        state := .fault, motor := false, slot := none, idle := none, leadLeft := 0, hold := l.faultHold
        capture := none, fltDet := false, brkDet := false }) n) n fun d => { d with plan := [] }).setPoint n
    s.enterFault n = State.settleLine (u.post
      { kind := .circuitFault, circ := some n, tag := (s.circ n).sch.tag, valA := BitVec.ofNat 32 l.state.code
        valB := BitVec.ofNat 16 (u.circ n).sch.queue.length }) n) ∧
  ∀ (s : State) (n : Circ),
    let x := s.circ n
    (x.sch.item = none → s.faultItem n = s) ∧
    (∀ i, x.sch.item = some (.notice i) → s.faultItem n = (s.leaveService n).enqueueBack n (.notice i)) ∧
    ∀ t st d, x.sch.item = some (.story t) → s.story t = some st → st.delivery n = some d →
      (x.sch.stop ≠ .none → s.faultItem n = s.silentStop n) ∧
      (x.sch.stop = .none → ∃ o b,
        s.faultItem n = (State.leaveService (s.setStory t (some (st.setDelivery n { d with
          state := .preempted, resumeOff := o, inDirective := b
          headSent := d.headSent && x.snd.phase != .head }))) n).enqueueBack n (.story t) ∧
        (∀ p, x.snd.origin = .text p → o = p ∧ b = x.snd.originDir) ∧
        ((∀ p, x.snd.origin ≠ .text p) →
          (x.snd.phase = .opening ∨ x.snd.phase = .head ∨ x.snd.phase = .resume →
            o = d.resumeOff ∧ b = d.inDirective) ∧
          (x.snd.phase = .endLine ∨ x.snd.phase = .blank → o = st.textEnd ∧ b = false) ∧
          (x.snd.phase = .lostLine ∨ x.snd.phase = .lostNewline ∨ x.snd.phase = .text →
            o = x.snd.nextUnsent ∧ b = x.snd.inDirective)))

/-- FAULT_RESTORE: a circuit in FAULT whose input reads mark enters STOPPED with the motor off, a pending circuit part is
taken or dropped there (R143), and with items queued it is at once in LEAD with the whole lead (R153, R135), or past a lead
of no slots in RUNNING, or HELD with a hold pending (R136). First the tracked plane becomes UNKNOWN and CIRCUIT_RESTORED
is posted with the queue's length (R153). In any other state, or while the input reads space, nothing happens (the model's
choice, log entry 6, as is the mark run, raised to the limit the command names). -/
def Obligations.FaultIsRestored : Prop :=
  (∀ (s : State) (n : Circ), (s.circ n).lu.state = .fault → s.readsMarkOn n = true →
    let u := ((s.updLu n fun l => { l with
      state := .stopped, motor := false, fltDet := false
      markRun := max l.markRun (s.ccfg n).clrLimit }).updSnd n fun d => { d with plane := none }).post
        { kind := .circuitRestored, circ := some n, valA := BitVec.ofNat 32 (s.circ n).sch.queue.length }
    (vget s.mirror.pendCirc n = false → exec (.faultRestore n) s = .next (u.sched n).settleBus) ∧
    (vget s.mirror.pendCirc n = true →
      exec (.faultRestore n) s = .next ((u.afterPart n (u.examineCirc n)).sched n).settleBus)) ∧
  ∀ (s : State) (n : Circ),
    ((s.circ n).lu.state ≠ .fault ∨ s.readsMarkOn n = false →
      ∃ t, exec (.faultRestore n) s = .next t ∧ s.SameBlocks t) ∧
    ((s.circ n).lu.state = .fault → s.readsMarkOn n = true → vget s.mirror.pendCirc n = false →
      ∃ t, exec (.faultRestore n) s = .next t ∧ (t.circ n).lu.fltDet = false ∧
        ((s.circ n).sch.queue = [] → (t.circ n).lu.state = .stopped ∧ (t.circ n).lu.motor = false) ∧
        ((s.circ n).sch.queue ≠ [] → 0 < (s.ccfg n).lead →
          (t.circ n).lu.state = .lead ∧ (t.circ n).lu.motor = true ∧
          (t.circ n).lu.leadLeft = (s.ccfg n).lead) ∧
        ((s.circ n).sch.queue ≠ [] → (s.ccfg n).lead = 0 → (s.circ n).lu.hold = false →
          (t.circ n).lu.state = .running ∧ (t.circ n).lu.motor = true ∧ (t.circ n).lu.slot.isSome = true) ∧
        ((s.circ n).sch.queue ≠ [] → (s.ccfg n).lead = 0 → (s.circ n).lu.hold = true →
          (s.circ n).lu.brkDet = false → (s.circ n).lu.spaceRun < (s.ccfg n).brkLimit →
          (t.circ n).lu.state = .held ∧ (t.circ n).lu.motor = true ∧ (t.circ n).lu.slot = none)) ∧
    ((s.circ n).lu.state = .fault → s.readsMarkOn n = true → vget s.mirror.pendCirc n = true →
      ∃ t, exec (.faultRestore n) s = .next t ∧ t.ccfg n = stagedCirc s.mirror.staging n ∧
        vget t.mirror.pendCirc n = false)

/-! ### The Report Writer and the part's own accesses (chapter 10, R9, R18, R30, R31) -/

/-- A post (R158, R159): begun at once with nothing in writing or queued and the ring open; dropped and counted with the
ring shut or four queued; queued behind the others otherwise. The record composed holds, byte by byte, the layout of R173:
kind, flags, feed, circuit, tag, class, number, values A and B and the lost count, FFh or FFFFh for what is absent
(R159). -/
def Obligations.PostedReports : Prop :=
  (∀ (s : State) (r : Report), r.kind ≠ .resetDone →
    (s.writer.rec_ = none → s.writer.queue = [] → s.ringOpen = true → (s.post r).writer = { s.writer with
      rec_ := some
        { slot := s.writer.tail, words := composeRecord r (s.applied.attnMask.getLsbD r.kind.code) s.writer.lost
          flag := s.applied.attnMask.getLsbD r.kind.code, done := 0, isReset := false }
      lost := 0 }) ∧
    (s.writer.rec_ = none → s.writer.queue = [] → s.ringOpen = false →
      (s.post r).writer = { s.writer with lost := satInc 65535 s.writer.lost }) ∧
    (s.writer.rec_ ≠ none ∨ s.writer.queue ≠ [] → s.writer.queue.length < 4 →
      (s.post r).writer = { s.writer with queue := s.writer.queue ++ [r] }) ∧
    (4 ≤ s.writer.queue.length → (s.post r).writer = { s.writer with lost := satInc 65535 s.writer.lost })) ∧
  (∀ (r : Report) (attn : Bool) (lost : Nat),
    let b (j : Nat) : Byte := wordByte ((composeRecord r attn lost).getD (j / 4) 0) (j % 4)
    (composeRecord r attn lost).length = 4 ∧ b 0 = BitVec.ofNat 8 r.kind.code ∧
    ((b 1).getLsbD 0 = attn ∧ (b 1).getLsbD 1 = r.hdrFault ∧ (b 1).getLsbD 2 = r.unclosed ∧
      (b 1).getLsbD 3 = r.unrouted ∧ ∀ i, 4 ≤ i → (b 1).getLsbD i = false) ∧
    (b 2 = match r.feed with
      | none => 0xFF
      | some f => BitVec.ofNat 8 f.1) ∧
    (b 3 = match r.circ with
      | none => 0xFF
      | some n => BitVec.ofNat 8 n.1) ∧
    (b 4 = match r.tag with
      | none => 0xFF
      | some t => BitVec.ofNat 8 t.1) ∧
    (b 5 = match r.cls with
      | none => 0xFF
      | some c => BitVec.ofNat 8 c.1) ∧
    (r.number = none → b 6 = 0xFF ∧ b 7 = 0xFF) ∧
    (∀ m, r.number = some m → b 6 = m.extractLsb' 0 8 ∧ b 7 = m.extractLsb' 8 8) ∧
    (∀ i, i < 4 → b (8 + i) = wordByte r.valA i) ∧
    b 12 = r.valB.extractLsb' 0 8 ∧ b 13 = r.valB.extractLsb' 8 8 ∧
    (lost ≤ 65535 → (b 14).toNat + 256 * (b 15).toNat = lost)) ∧
  [ReportKind.storyOpened, .storyRetired, .deliveryDone, .deliveryAbandoned, .killDone, .killUnmatched,
    .supersedeUnmatched, .duplicateNumber, .tableFull, .spiked, .feedHigh, .feedLow, .feedBlocked, .overrunCut,
    .strayWrite, .looseCopy, .noticeDropped, .memoryFault, .circuitBreak, .circuitClear, .circuitFault,
    .circuitRestored, .circuitCleared, .applyDone, .applyRefused, .resetDone].map ReportKind.code = List.range 26

/-- REPORT_HEAD_READ: the host reads word 0 of the head slot, and with nothing queued and no ring part waiting the head
record is consumed, nothing else moves, and the attention output follows the attention count (R161, R163). PAGE_LOAD_READ:
a word read, or four zero bytes with a fault, is copied whole into staging, its nonzero request bytes noted; the last word
ends the load: the noted request bytes are written back and the generation loaded is acted on (R3, R31). -/
def Obligations.HeadAndLoadReads : Prop :=
  (∀ (s : State) (x : Txn), s.hostTxn = some x → x.write = false →
    s.classify (Txn.word x) = .report s.writer.head 0 → 0 < s.writer.count →
    exec .reportHeadRead s = .next (s.landed x).consumeHead.ringBoundary.pumpReports.settleBus ∧
    (s.writer.queue = [] → s.mirror.pendRing ≠ .waiting →
      ∃ t, exec .reportHeadRead s = .next t ∧ t.mem = s.mem ∧
        t.bus.hostReply = some { data := memReadWord s.mem (Txn.word x), busError := false } ∧
        t.writer = { s.writer with
          head := s.nextSlot s.writer.head, count := s.writer.count - 1, flags := s.writer.flags.tail
          attn := if s.writer.flags.headD false then s.writer.attn - 1 else s.writer.attn } ∧
        (s.setWriter t.writer).SameBlocks t ∧ s.SameMirror t ∧
        (t.attention = true ↔ s.applied.attnEnable = true ∧ 0 < t.writer.attn))) ∧
  ∀ (s : State) (x : Txn) (o fault : Bool) (j : LoadJob),
    s.bus.port = some { by_ := .mirror .load, txn := x, orphan := o } → s.mirror.load = some j →
    Memory.wf s.mirror.staging = true →
    let d := if fault then 0 else memReadWord s.mem (Txn.word x)
    let nz := j.nonzero ++ loadedRequests j.next d
    let v := s.freePort.stageWrite j.next 0xF d
    (∀ a, a ∈ nz ↔ a ∈ j.nonzero ∨ j.next ≤ a ∧ a < j.next + 4 ∧ (a = 4 ∨ a = 8 ∨ 0x0C ≤ a ∧ a < 0x14) ∧
      wordByte d (a - j.next) ≠ 0) ∧
    ∃ t, exec (.pageLoadRead fault) s = .next t ∧ t.mem = s.mem ∧
      (∀ a, memRead t.mirror.staging a =
        if j.next ≤ a ∧ a < j.next + 4 then wordByte d (a - j.next) else memRead s.mirror.staging a) ∧
      (j.next + 4 < pageSize → s.SameBlocks t ∧ t.mirror.load = some { next := j.next + 4, nonzero := nz } ∧
        t.mirror.genSeen = s.mirror.genSeen) ∧
      (pageSize ≤ j.next + 4 →
        t = (State.startApply (nz.foldl State.listZero { v with mirror := { v.mirror with load := none } })).settleBus ∧
        t.mirror.load = none ∧ t.mirror.genSeen = staged8 t.mirror.staging 0)

/-- RECORD_WORD_COMPLETE: a word of the record in writing reaches memory; the fourth makes the record visible at the tail
(R9, R159, R160). The visible record of RESET_DONE lists the 0 of the soft-reset byte and clears the reset completion (R34).
Then the oldest queued report is begun, or dropped and counted with the ring shut, and the next one after it (R159, R160,
R162). A word a soft reset withdrew reaches memory and moves nothing (R16). -/
def Obligations.RecordWordCompletes : Prop :=
  (∀ (s : State) (x : Txn) (j : RecordJob), s.bus.port = some { by_ := .writer, txn := x, orphan := false } →
    s.writer.rec_ = some j → 3 ≤ j.done →
    let v : State := State.setWriter { s.freePort with mem := memApply s.mem x } { s.writer with
      rec_ := none, tail := s.nextSlot s.writer.tail, count := s.writer.count + 1
      flags := s.writer.flags ++ [j.flag]
      attn := if j.flag then s.writer.attn + 1 else s.writer.attn }
    let w : State := v.listBytes 4 0b0001 0
    exec .recordWordComplete s = .next (State.settleBus (State.pumpReports
      (if j.isReset = true ∧ s.mirror.resetWait = true
        then { w with mirror := { w.mirror with resetWait := false } } else v)))) ∧
  (∀ (s : State) (r : Report) (rs : List Report),
    (s.writer.rec_ ≠ none ∨ s.writer.queue = [] → s.pumpReports = s) ∧
    (s.writer.rec_ = none → s.writer.queue = r :: rs →
      (s.ringOpen = true → s.pumpReports = s.setWriter { s.writer with
        rec_ := some
          { slot := s.writer.tail, words := composeRecord r (s.applied.attnMask.getLsbD r.kind.code) s.writer.lost
            flag := s.applied.attnMask.getLsbD r.kind.code, done := 0, isReset := r.kind == .resetDone }
        queue := rs, lost := 0 }) ∧
      (s.ringOpen = false → r.kind ≠ .resetDone → s.pumpReports =
        (s.setWriter { s.writer with queue := rs, lost := satInc 65535 s.writer.lost }).pumpReports))) ∧
  ∀ (s : State) (x : Txn),
    (s.bus.port = some { by_ := .writer, txn := x, orphan := true } →
      ∃ t, exec .recordWordComplete s = .next t ∧ t.mem = memApply s.mem x ∧ s.SameBlocks t ∧ s.SameMirror t) ∧
    ∀ j : RecordJob, s.bus.port = some { by_ := .writer, txn := x, orphan := false } → s.writer.rec_ = some j →
    ∃ t, exec .recordWordComplete s = .next t ∧ t.mem = memApply s.mem x ∧ t.stories = s.stories ∧
      t.circuits = s.circuits ∧ t.applied = s.applied ∧
      (j.done < 3 → t.writer = { s.writer with rec_ := some { j with done := j.done + 1 } }) ∧
      (3 ≤ j.done → s.writer.queue = [] → t.writer = { s.writer with
        rec_ := none, tail := s.nextSlot s.writer.tail, count := s.writer.count + 1
        flags := s.writer.flags ++ [j.flag]
        attn := if j.flag then s.writer.attn + 1 else s.writer.attn })

/-- The write list (R18): bytes for a word that is listed join it, the later value standing in each lane they name, and
any others make a new word at the end; no two words have one address. MIRROR_WRITE_COMPLETE: a listed word reaches memory,
and staging and every block stay (R8, R18). -/
def Obligations.ListedWordCompletes : Prop :=
  (∀ (s : State) (x : Txn) (o : Bool), s.bus.port = some { by_ := .mirror .list, txn := x, orphan := o } →
    ∃ t, exec .mirrorWriteComplete s = .next t ∧ t.mem = memApply s.mem x ∧ s.SameBlocks t ∧ s.SameMirror t) ∧
  ∀ (s : State) (off : Nat) (be : BitVec 4) (d : Word32),
    (s.listBytes off be d) = { s with mirror := { s.mirror with
      writeList := (s.listBytes off be d).mirror.writeList } } ∧
    ((∀ w ∈ s.mirror.writeList, w.off ≠ off) → (s.listBytes off be d).mirror.writeList =
      s.mirror.writeList ++ [{ off := off, be := be, data := d }]) ∧
    (∀ a w b, s.mirror.writeList = a ++ w :: b → w.off = off → (∀ v ∈ a, v.off ≠ off) →
      (s.listBytes off be d).mirror.writeList =
        a ++ { off := off, be := w.be ||| be, data := mergeLanes w.data d be } :: b) ∧
    ((s.mirror.writeList.map ListedWord.off).Nodup →
      ((s.listBytes off be d).mirror.writeList.map ListedWord.off).Nodup) ∧
    (∀ (old : Word32) i, i < 4 → wordByte (mergeLanes old d be) i =
      if be.getLsbD i then wordByte d i else wordByte old i)

/-- SNAPSHOT_WORD_WRITE: a snapshot word reaches memory and the next follows from the captured copy; after the last the
writing ends, and the request's answer is listed, result 0 and the 0 of its kind in one word (R29, R30); a waiting
snapshot is then captured under the next count (R30). That
its header holds the count after the increment is the model's deduction (log entry 51). -/
def Obligations.SnapshotWordCompletes : Prop :=
  ∀ (s : State) (x : Txn) (o : Bool) (j : SnapJob),
    s.bus.port = some { by_ := .mirror .snap, txn := x, orphan := o } → s.mirror.snap = some j →
    (let v : State := { s.freePort with mem := memApply s.mem x }
     let w : State := State.listBytes { v with mirror := { v.mirror with snap := none } } 8 0b1001 0
     j.words.length ≤ j.next + 1 → exec .snapshotWordWrite s = .next (State.settleBus (if j.waiting then
       { w with mirror := { w.mirror with
           snapCount := s.mirror.snapCount + 1
           snap := some { words := s.snapWords (s.mirror.snapCount + 1), next := 0, waiting := false } } }
       else w))) ∧
    ∃ t, exec .snapshotWordWrite s = .next t ∧ t.mem = memApply s.mem x ∧ s.SameBlocks t ∧
      t.mirror.staging = s.mirror.staging ∧
      (j.next + 1 < j.words.length → t.mirror.snap = some { j with next := j.next + 1 } ∧
        t.mirror.snapCount = s.mirror.snapCount) ∧
      (j.words.length ≤ j.next + 1 → j.waiting = false → t.mirror.snap = none ∧
        t.mirror.snapCount = s.mirror.snapCount) ∧
      (j.words.length ≤ j.next + 1 → j.waiting = true → t.mirror.snapCount = s.mirror.snapCount + 1 ∧
        t.mirror.snap = some { words := s.snapWords (s.mirror.snapCount + 1), next := 0, waiting := false })

/-- FETCH_WORD_COMPLETE: the first three words of a fetch join it, carrying a read fault to its completion; the fourth
completes it (R3, R9, R145). The data of a word a soft reset withdrew is discarded (R16). A completed fetch that is kept
enters the lookahead behind the units held, joining a short unit fetched again (R145); with a fault it enters as a lost
unit and MEMORY_FAULT is posted; one marked to be discarded is dropped, and nothing is posted (R145, R154).

The lost unit (R154): the read position reaching it places the held word, then drops the pending spaces, puts the next
unsent offset at the unit's limit, places a newline above column 0, and passes to the lost-copy line; the word's end there
is a stop place and no preemption point; after the line the text goes on at the limit, the unit removed. That the
lost-copy line's last newline leaves the limit as the line origin is the model's choice (log entry 53), and so is that the lost
unit ends a skipped directive (log entry 60). -/
def Obligations.FetchedWordJoins : Prop :=
  (∀ (s : State) (x : Txn) (n : Circ) (fault : Bool),
    (s.bus.port = some { by_ := .fetcher n, txn := x, orphan := true } →
      ∃ t, exec (.fetchWordComplete fault) s = .next t ∧ t.mem = s.mem ∧ s.SameBlocks t ∧ s.SameMirror t) ∧
    ∀ f : Fetch, s.bus.port = some { by_ := .fetcher n, txn := x, orphan := false } → (s.circ n).ftc.fetch = some f →
    ∃ t, exec (.fetchWordComplete fault) s = .next t ∧ t.mem = s.mem ∧
      (f.bytes.length + 4 < 16 →
        (t.circ n).ftc.fetch = some { f with
          bytes := f.bytes ++ bytesOf (if fault then 0 else memReadWord s.mem (Txn.word x))
          fault := f.fault || fault } ∧
        (t.circ n).lu = (s.circ n).lu ∧ (t.circ n).sch = (s.circ n).sch ∧ (t.circ n).snd = (s.circ n).snd ∧
        (∀ m, m ≠ n → t.circ m = s.circ m) ∧ t.stories = s.stories ∧ t.writer = s.writer) ∧
      (16 ≤ f.bytes.length + 4 → t = (State.settleLine (s.freePort.fetchDone n
        (f.addWord (if fault then 0 else memReadWord s.mem (Txn.word x)) fault)) n).settleBus)) ∧
  (∀ (s : State) (n : Circ) (f : Fetch),
    let kept := s.updFtc n fun x => { x with look := addUnit f x.look, fetch := none }
    (f.fate = .keep → f.fault = false → s.fetchDone n f = kept) ∧
    (∀ t st, f.fate = .keep → f.fault = true → (s.circ n).sch.item = some (.story t) → s.story t = some st →
      s.fetchDone n f = kept.post
        { kind := .memoryFault, feed := some st.feed, circ := some n, tag := some t, cls := some st.cls,
          number := st.number, valA := BitVec.ofNat 32 f.off, valB := BitVec.ofNat 16 f.lim }) ∧
    (f.fate = .dropStale → s.fetchDone n f = s.updFtc n fun x => { x with fetch := none }) ∧
    (∀ t, f.fate = .dropBack → (s.circ n).sch.item = some (.story t) →
      s.fetchDone n f = s.updFtc n fun x => { x with fetch := none, nextFetch := f.off })) ∧
  (∀ (f : Fetch) (us : List LUnit),
    let unit : LUnit := { off := f.off, start := f.start, lim := f.lim, data := f.bytes, lost := f.fault }
    (f.fault = true ∨ us = [] → addUnit f us = us ++ [unit]) ∧
    ∀ u : LUnit,
      (u.off ≠ f.off ∨ u.lost = true → addUnit f (us ++ [u]) = us ++ [u, unit]) ∧
      (u.off = f.off → u.lost = false → f.fault = false → addUnit f (us ++ [u]) =
        us ++ [{ u with lim := f.lim, data := u.data.take u.lim ++ f.bytes.drop u.lim }])) ∧
  (∀ (e : TextEnv) (d : Sender) (k : Nat) (u : LUnit), lookAt d.readPos e.look = .lost u → d.readPos ≠ e.textEnd →
    heldTooLong e.cfg.width d.held.length = false →
    (d.held ≠ [] → textStep e (k + 1) d = (d.placeHeld e true, .ready)) ∧
    (d.held = [] → d.replayOver e.size = false →
      textStep e (k + 1) d = ({ d with pend := 0, inDirective := false }, .lost u))) ∧
  ∀ (s : State) (n : Circ),
    let x := s.circ n
    (∀ t st d u, x.sch.item = some (.story t) → x.snd.phase = .text → s.story t = some st →
      textStep (s.textEnv n st) 128 x.snd = (d, .lost u) →
      s.askTurn n = ((s.afterRead n (s.fsize st.feed) d).beginLost n (s.fsize st.feed) u, true)) ∧
    (∀ size u,
      let lim := (u.off + u.lim) % size
      ((s.beginLost n size u).circ n).snd = (if x.snd.column = 0
        then { x.snd with nextUnsent := lim, svc := none, phase := .lostLine }
        else { x.snd with
          nextUnsent := lim, svc := none, phase := .lostNewline, plan := placeNewline (s.ccfg n).fill .lost }) ∧
      s.OnlyCirc (s.beginLost n size u) n ∧ ((s.beginLost n size u).circ n).lu = x.lu ∧
      ((s.beginLost n size u).circ n).ftc = x.ftc) ∧
    (s.nlNext n .lost).circ n = { x with snd := { x.snd with phase := .lostLine, svc := none } } ∧
    (x.snd.phase = .lostLine → (s.nlNext n .svcLast).circ n = { x with
      snd := { x.snd with
        phase := .text, svc := none, readPos := x.snd.nextUnsent, pend := 0, origin := .text x.snd.nextUnsent
        originDir := x.snd.inDirective }
      ftc := { x.ftc with look := (pruneUnits x.snd.nextUnsent (dropLost x.ftc.look)).filter fun u =>
        !(u.off == unitOf x.snd.nextUnsent && decide (u.lim ≤ x.snd.nextUnsent % 16)) } }) ∧
    (x.atLost = true → x.snd.replay = none →
      (s.stopOpen n = true → s.complete n .wordEnd = s.stopHere n) ∧
      (s.stopOpen n = false → s.complete n .wordEnd = s))
end

