-- ==== Sys2Proof/Laws/State.lean ====
section
/-! SUPPORT. Each piece of the state read after each update of it: one lemma per field per update, true by rfl or
by the law of vectors. -/

namespace Sys2Proof.Machine

/-! ### Vectors -/

theorem vget_vset {α : Type} {k : Nat} (v : Vector α k) (i j : Fin k) (x : α) :
    vget (vset v i x) j = if i = j then x else vget v j := by
  simp only [vget, vset, Vector.getElem_set, Fin.ext_iff]

@[simp] theorem vget_vset_same {α : Type} {k : Nat} (v : Vector α k) (i : Fin k) (x : α) :
    vget (vset v i x) i = x := by simp [vget_vset]

@[simp] theorem vget_vset_ne {α : Type} {k : Nat} (v : Vector α k) {i j : Fin k} (x : α) (h : i ≠ j) :
    vget (vset v i x) j = vget v j := by simp [vget_vset, h]

@[simp] theorem vget_replicate {α : Type} {k : Nat} (i : Fin k) (x : α) :
    vget (Vector.replicate k x) i = x := by simp [vget]

@[simp] theorem vget_map {α β : Type} {k : Nat} (f : α → β) (v : Vector α k) (i : Fin k) :
    vget (v.map f) i = f (vget v i) := by simp [vget]

@[simp] theorem vget_ofFn {α : Type} {k : Nat} (f : Fin k → α) (i : Fin k) :
    vget (Vector.ofFn f) i = f i := by simp [vget]

/-! ### One accessor after one update -/

variable (s : State)

theorem circ_setCirc (n m : Circ) (c : Circuit) :
    (s.setCirc n c).circ m = if n = m then c else s.circ m := vget_vset _ _ _ _

@[simp] theorem circ_setCirc_same (n : Circ) (c : Circuit) : (s.setCirc n c).circ n = c :=
  vget_vset_same _ _ _

@[simp] theorem circ_updLu_same (n : Circ) (f : LineUnit → LineUnit) :
    (s.updLu n f).circ n = { s.circ n with lu := f (s.circ n).lu } := vget_vset_same _ _ _

@[simp] theorem circ_updSch_same (n : Circ) (f : Sched → Sched) :
    (s.updSch n f).circ n = { s.circ n with sch := f (s.circ n).sch } := vget_vset_same _ _ _

@[simp] theorem circ_updSnd_same (n : Circ) (f : Sender → Sender) :
    (s.updSnd n f).circ n = { s.circ n with snd := f (s.circ n).snd } := vget_vset_same _ _ _

@[simp] theorem circ_updFtc_same (n : Circ) (f : Fetcher → Fetcher) :
    (s.updFtc n f).circ n = { s.circ n with ftc := f (s.circ n).ftc } := vget_vset_same _ _ _

theorem circ_updLu_ne {n m : Circ} (h : n ≠ m) (f : LineUnit → LineUnit) :
    (s.updLu n f).circ m = s.circ m := vget_vset_ne _ _ h

theorem circ_updSch_ne {n m : Circ} (h : n ≠ m) (f : Sched → Sched) :
    (s.updSch n f).circ m = s.circ m := vget_vset_ne _ _ h

theorem circ_updSnd_ne {n m : Circ} (h : n ≠ m) (f : Sender → Sender) :
    (s.updSnd n f).circ m = s.circ m := vget_vset_ne _ _ h

theorem circ_updFtc_ne {n m : Circ} (h : n ≠ m) (f : Fetcher → Fetcher) :
    (s.updFtc n f).circ m = s.circ m := vget_vset_ne _ _ h

@[simp] theorem ctx_setCtx_same (f : Feed) (c : FeedCtx) : (s.setCtx f c).ctx f = c :=
  vget_vset_same _ _ _

theorem ctx_setCtx_ne {f g : Feed} (h : f ≠ g) (c : FeedCtx) : (s.setCtx f c).ctx g = s.ctx g :=
  vget_vset_ne _ _ h

@[simp] theorem acct_setAcct_same (f : Feed) (a : Account) : (s.setAcct f a).acct f = a :=
  vget_vset_same _ _ _

theorem acct_setAcct_ne {f g : Feed} (h : f ≠ g) (a : Account) : (s.setAcct f a).acct g = s.acct g :=
  vget_vset_ne _ _ h

@[simp] theorem fcfg_setFcfg_same (f : Feed) (c : FeedCfg) : (s.setFcfg f c).fcfg f = c :=
  vget_vset_same _ _ _

theorem fcfg_setFcfg_ne {f g : Feed} (h : f ≠ g) (c : FeedCfg) : (s.setFcfg f c).fcfg g = s.fcfg g :=
  vget_vset_ne _ _ h

@[simp] theorem flist_setFlist_same (f : Feed) (l : List Tag) : (s.setFlist f l).flist f = l :=
  vget_vset_same _ _ _

@[simp] theorem story_setStory_same (t : Tag) (x : Option Story) : (s.setStory t x).story t = x :=
  vget_vset_same _ _ _

theorem story_setStory_ne {t u : Tag} (h : t ≠ u) (x : Option Story) :
    (s.setStory t x).story u = s.story u := vget_vset_ne _ _ h

@[simp] theorem notice_setNotice_same (i : Slot32) (x : Option Notice) : (s.setNotice i x).notice i = x :=
  vget_vset_same _ _ _

theorem delivery_setDelivery (st : Story) (n m : Circ) (d : Delivery) :
    (st.setDelivery n d).delivery m = if n = m then some d else st.delivery m := vget_vset _ _ _ _

/-! ### What each update leaves alone -/

@[simp] theorem setWriter_writer (w : Writer) : (s.setWriter w).writer = w := rfl
@[simp] theorem setWriter_applied (w : Writer) : (s.setWriter w).applied = s.applied := rfl
@[simp] theorem setWriter_mirror (w : Writer) : (s.setWriter w).mirror = s.mirror := rfl
@[simp] theorem setWriter_circuits (w : Writer) : (s.setWriter w).circuits = s.circuits := rfl
@[simp] theorem setWriter_stories (w : Writer) : (s.setWriter w).stories = s.stories := rfl
@[simp] theorem setCirc_writer (n : Circ) (c : Circuit) : (s.setCirc n c).writer = s.writer := rfl
@[simp] theorem setCirc_applied (n : Circ) (c : Circuit) : (s.setCirc n c).applied = s.applied := rfl
@[simp] theorem setCirc_mirror (n : Circ) (c : Circuit) : (s.setCirc n c).mirror = s.mirror := rfl
@[simp] theorem setCirc_stories (n : Circ) (c : Circuit) : (s.setCirc n c).stories = s.stories := rfl
@[simp] theorem setStory_circuits (t : Tag) (x : Option Story) : (s.setStory t x).circuits = s.circuits := rfl
@[simp] theorem setStory_writer (t : Tag) (x : Option Story) : (s.setStory t x).writer = s.writer := rfl
@[simp] theorem setStory_applied (t : Tag) (x : Option Story) : (s.setStory t x).applied = s.applied := rfl
@[simp] theorem setCtx_accounts (f : Feed) (c : FeedCtx) : (s.setCtx f c).accounts = s.accounts := rfl
@[simp] theorem setCtx_stories (f : Feed) (c : FeedCtx) : (s.setCtx f c).stories = s.stories := rfl
@[simp] theorem setAcct_intake (f : Feed) (a : Account) : (s.setAcct f a).intake = s.intake := rfl
@[simp] theorem setFcfg_intake (f : Feed) (c : FeedCfg) : (s.setFcfg f c).intake = s.intake := rfl

end Sys2Proof.Machine
end

