-- ==== Sys2Proof/Laws/Idle.lean ====
section
/-! SUPPORT. What settling does on a circuit that has nothing in service, nothing queued and no stop order. -/

namespace Sys2Proof.Machine

/-- A later update of circuit n replaces an earlier one. -/
@[simp] theorem setCirc_setCirc (s : State) (n : Circ) (c d : Circuit) :
    (s.setCirc n c).setCirc n d = s.setCirc n d := by
  simp [State.setCirc, vset]

/-- Nothing is in service, queued or ordered to stop on circuit n. -/
structure State.Vacant (s : State) (n : Circ) : Prop where
  item : (s.circ n).sch.item = none
  queue : (s.circ n).sch.queue = []
  stop : (s.circ n).sch.stop = .none

theorem pointOf_vacant {s : State} {n : Circ} (h : s.Vacant n) : s.pointOf n = .none := by
  simp [State.pointOf, h.item]

theorem actAtOnce_vacant {s : State} {n : Circ} (h : s.Vacant n) : s.actAtOnce n = s := by
  simp [State.actAtOnce, State.stopHeld, State.stopAtOnce, State.leavesAtOnce, State.mayLeave, State.waitingCopy, Sched.tag,
    h.item, h.stop]

theorem select_vacant {s : State} {n : Circ} (h : s.Vacant n) : s.select n = s := by
  simp [State.select, h.queue, State.pick]

theorem fetchTry_vacant {s : State} {n : Circ} (h : s.Vacant n) : s.fetchTry n = s := by
  simp [State.fetchTry, State.nextFetchOf, Sched.tag, h.item]

theorem setPoint_vacant {s : State} {n : Circ} (h : s.Vacant n) :
    s.setPoint n = s.updSch n fun c => { c with point := .none } := by
  simp [State.setPoint, pointOf_vacant h]

/-- Settling a vacant circuit clears its preemption point and sets its idle timer, and does nothing else (R91, R95,
R137). -/
theorem settleLine_vacant {s : State} {n : Circ} (h : s.Vacant n) :
    s.settleLine n = s.setCirc n { s.circ n with
      sch := { (s.circ n).sch with point := .none }
      lu := { (s.circ n).lu with
        idle := if (s.circ n).lu.state = .running then some ((s.circ n).lu.idle.getD 0) else none } } := by
  have h1 : (s.updSch n fun c => { c with point := .none }).Vacant n :=
    ⟨by simp [h.item], by simp [h.queue], by simp [h.stop]⟩
  have h2 : ((s.updSch n fun c => { c with point := .none }).setPoint n)
      = s.updSch n fun c => { c with point := .none } := by
    rw [setPoint_vacant h1]; simp [State.updSch]
  have h3 : ((s.updSch n fun c => { c with point := .none }).setIdle n).Vacant n :=
    ⟨by simp [State.setIdle, h.item], by simp [State.setIdle, h.queue], by simp [State.setIdle, h.stop]⟩
  rw [State.settleLine, setPoint_vacant h, actAtOnce_vacant h1, select_vacant h1, h2, fetchTry_vacant h3]
  simp [State.setIdle, State.isIdle, State.updLu, State.updSch, h.item, h.queue]

end Sys2Proof.Machine
end

