-- ==== Sys2Proof/Laws/Memory.lean ====
section
/-! SUPPORT. The sparse bytes: the canonical form is kept, a read after a write, and equal reads are equal data. -/

namespace Sys2Proof.Machine

@[simp] theorem memRead_nil (a : Nat) : memRead [] a = unlisted := rfl

theorem memSorted_mono {lo lo' : Nat} (h : lo' ≤ lo) {m : Memory} (hm : memSorted lo m = true) :
    memSorted lo' m = true := by
  cases m with
  | nil => rfl
  | cons c m =>
    simp only [memSorted, Bool.and_eq_true, decide_eq_true_eq] at hm ⊢
    exact ⟨⟨Nat.le_trans h hm.1.1, hm.1.2⟩, hm.2⟩

/-- Nothing is listed below the start of a canonical memory. -/
theorem memRead_below {lo a : Nat} {m : Memory} (hm : memSorted lo m = true) (h : a < lo) :
    memRead m a = unlisted := by
  induction m generalizing lo with
  | nil => rfl
  | cons c m ih =>
    obtain ⟨k, v⟩ := c
    simp only [memSorted, Bool.and_eq_true, decide_eq_true_eq] at hm
    have hk : ¬ k = a := by omega
    simp only [memRead, hk, if_false]
    exact ih hm.2 (by omega)

theorem memWrite_sorted {lo a : Nat} (v : Byte) {m : Memory} (hm : memSorted lo m = true) (h : lo ≤ a) :
    memSorted lo (memWrite m a v) = true := by
  induction m generalizing lo with
  | nil =>
    simp only [memWrite]
    split
    · rfl
    · simp [memSorted, *]
  | cons c m ih =>
    obtain ⟨k, w⟩ := c
    simp only [memSorted, Bool.and_eq_true, decide_eq_true_eq] at hm
    simp only [memWrite]
    split_ifs with h1 h2 h3 h4
    · simp [memSorted, hm]
    · simp only [memSorted, Bool.and_eq_true, decide_eq_true_eq, bne_iff_ne, ne_eq]
      exact ⟨⟨h, h2⟩, ⟨by omega, by simpa using hm.1.2⟩, hm.2⟩
    · exact memSorted_mono (by omega) hm.2
    · subst h3
      simp only [memSorted, Bool.and_eq_true, decide_eq_true_eq, bne_iff_ne, ne_eq]
      exact ⟨⟨h, h4⟩, hm.2⟩
    · simp only [memSorted, Bool.and_eq_true, decide_eq_true_eq]
      exact ⟨hm.1, ih hm.2 (by omega)⟩

/-- A write keeps the canonical form. -/
theorem memWrite_wf {m : Memory} (hm : Memory.wf m = true) (a : Nat) (v : Byte) :
    Memory.wf (memWrite m a v) = true := memWrite_sorted v hm (Nat.zero_le _)

theorem memRead_memWrite_sorted {lo : Nat} {m : Memory} (hm : memSorted lo m = true) (a b : Nat) (v : Byte) :
    memRead (memWrite m a v) b = if a = b then v else memRead m b := by
  induction m generalizing lo with
  | nil =>
    by_cases hv : v = unlisted <;> by_cases hab : a = b <;> simp [memWrite, memRead, hv, hab]
  | cons c m ih =>
    obtain ⟨k, w⟩ := c
    simp only [memSorted, Bool.and_eq_true, decide_eq_true_eq] at hm
    have hbelow : ∀ x, x ≤ k → memRead m x = unlisted := fun x hx => memRead_below hm.2 (by omega)
    rcases Nat.lt_trichotomy a k with hlt | rfl | hgt
    · have hka : ¬ k = a := by omega
      have ha := hbelow a (by omega)
      by_cases hab : a = b
      · subst hab; by_cases hv : v = unlisted <;> simp [memWrite, memRead, hlt, hv, hka, ha]
      · by_cases hv : v = unlisted <;> simp [memWrite, memRead, hlt, hv, hab]
    · have ha := hbelow a (Nat.le_refl _)
      by_cases hab : a = b
      · subst hab; by_cases hv : v = unlisted <;> simp [memWrite, memRead, hv, ha]
      · by_cases hv : v = unlisted <;> simp [memWrite, memRead, hv, hab]
    · have h1 : ¬ a < k := by omega
      have h2 : ¬ a = k := by omega
      simp only [memWrite, h1, h2, if_false, memRead]
      rw [ih hm.2]
      by_cases hk : k = b
      · simp [hk, show ¬ a = b by omega]
      · simp [hk]

/-- A read after a write gives the value written there and what was there elsewhere. -/
theorem memRead_memWrite {m : Memory} (hm : Memory.wf m = true) (a b : Nat) (v : Byte) :
    memRead (memWrite m a v) b = if a = b then v else memRead m b := memRead_memWrite_sorted hm a b v

/-- Writing listed lanes keeps the canonical form. -/
theorem memWriteLanes_wf {m : Memory} (hm : Memory.wf m = true) (a : Nat) (d : Word32) (l : List Nat) :
    Memory.wf (memWriteLanes m a d l) = true := by
  induction l generalizing m with
  | nil => exact hm
  | cons i is ih => exact ih (memWrite_wf hm _ _)

/-- A byte after listed lanes are written: a listed lane's byte, else as before. -/
theorem memRead_memWriteLanes {m : Memory} (hm : Memory.wf m = true) (a : Nat) (d : Word32) (l : List Nat)
    (b : Nat) :
    memRead (memWriteLanes m a d l) b =
      if a ≤ b ∧ b - a ∈ l then wordByte d (b - a) else memRead m b := by
  induction l generalizing m with
  | nil => simp [memWriteLanes]
  | cons i is ih =>
    rw [memWriteLanes, ih (memWrite_wf hm _ _), memRead_memWrite hm]
    by_cases hab : a ≤ b
    · by_cases h1 : b - a ∈ is
      · simp [hab, h1]
      · by_cases h2 : a + i = b
        · subst h2; simp
        · simp [hab, h1, h2, show ¬ b - a = i by omega]
    · simp [hab, show ¬ a + i = b by omega]

@[simp] theorem memApply_read (m : Memory) (t : Txn) (h : t.write = false) : memApply m t = m := by
  simp [memApply, h]

/-- A transaction at memory keeps the canonical form. -/
theorem memApply_wf {m : Memory} (hm : Memory.wf m = true) (t : Txn) : Memory.wf (memApply m t) = true := by
  unfold memApply
  split
  · exact memWriteLanes_wf hm _ _ _
  · exact hm

theorem mem_lanesOf (be : BitVec 4) (i : Nat) : i ∈ lanesOf be ↔ i < 4 ∧ be.getLsbD i = true := by
  simp only [lanesOf, List.mem_filter, List.mem_cons, List.not_mem_nil, or_false]
  constructor
  · rintro ⟨h, hb⟩; exact ⟨by omega, hb⟩
  · rintro ⟨h, hb⟩; exact ⟨by omega, hb⟩

/-- A write changes its enabled bytes and nothing else (R1). -/
theorem memRead_memApply {m : Memory} (hm : Memory.wf m = true) (t : Txn) (b : Nat) :
    memRead (memApply m t) b =
      if t.write = true ∧ Txn.word t ≤ b ∧ b - Txn.word t < 4 ∧ t.be.getLsbD (b - Txn.word t) = true
      then wordByte t.data (b - Txn.word t) else memRead m b := by
  unfold memApply
  by_cases h : t.write = true
  · simp only [h, if_true, true_and]
    rw [memRead_memWriteLanes hm]
    simp only [mem_lanesOf]
  · simp [h]

/-- Canonical memories that read alike are equal. -/
theorem memSorted_ext {lo : Nat} {m m' : Memory} (h : memSorted lo m = true) (h' : memSorted lo m' = true)
    (hr : ∀ a, memRead m a = memRead m' a) : m = m' := by
  induction m generalizing lo m' with
  | nil =>
    cases m' with
    | nil => rfl
    | cons c m' =>
      obtain ⟨k, v⟩ := c
      simp only [memSorted, Bool.and_eq_true, decide_eq_true_eq, bne_iff_ne, ne_eq] at h'
      have := hr k
      simp [memRead] at this
      exact absurd this.symm h'.1.2
  | cons c m ih =>
    obtain ⟨k, v⟩ := c
    have h0 := h
    simp only [memSorted, Bool.and_eq_true, decide_eq_true_eq, bne_iff_ne, ne_eq] at h
    cases m' with
    | nil =>
      have := hr k
      simp [memRead] at this
      exact absurd this h.1.2
    | cons c' m' =>
      obtain ⟨k', v'⟩ := c'
      have h0' := h'
      simp only [memSorted, Bool.and_eq_true, decide_eq_true_eq, bne_iff_ne, ne_eq] at h'
      have hkk : k = k' := by
        rcases Nat.lt_trichotomy k k' with hlt | heq | hgt
        · have := hr k
          rw [memRead_below (m := (k', v') :: m') (lo := k') (by simp [memSorted, h'.1.2, h'.2]) hlt] at this
          simp [memRead] at this
          exact absurd this h.1.2
        · exact heq
        · have := hr k'
          rw [memRead_below (m := (k, v) :: m) (lo := k) (by simp [memSorted, h.1.2, h.2]) hgt] at this
          simp [memRead] at this
          exact absurd this.symm h'.1.2
      subst hkk
      have hv : v = v' := by simpa [memRead] using hr k
      subst hv
      have : m = m' := by
        refine ih h.2 h'.2 fun a => ?_
        by_cases ha : k = a
        · subst ha
          rw [memRead_below h.2 (by omega), memRead_below h'.2 (by omega)]
        · simpa [memRead, ha] using hr a
      rw [this]

theorem Memory.ext_reads {m m' : Memory} (h : Memory.wf m = true) (h' : Memory.wf m' = true)
    (hr : ∀ a, memRead m a = memRead m' a) : m = m' := memSorted_ext h h' hr

end Sys2Proof.Machine
end

