-- ==== Sys2Proof/Laws/Outer.lean ====
section
/-! SUPPORT. What the blocks behind the Bus Passage never touch: the bus, story memory, staging, the model's free
counter and the queue of commands. One lemma for each operation of the part. -/

namespace Sys2Proof.Machine

/-- The part of the state that only the Bus Passage and the Mirror's staging write. -/
def State.outer (s : State) : Bus × Memory × Memory × Nat × List Instr :=
  (s.bus, s.mem, s.mirror.staging, s.freeCount, s.pending)

/-! ### Record updates -/

variable (s : State)

@[simp] theorem outer_mk_mirror (m : Mirror) (h : m.staging = s.mirror.staging) :
    State.outer { s with mirror := m } = s.outer := by simp [State.outer, h]
@[simp] theorem outer_mk_applied (a : Applied) : State.outer { s with applied := a } = s.outer := rfl
@[simp] theorem outer_mk_intake (a : Vector FeedCtx 12) : State.outer { s with intake := a } = s.outer := rfl
@[simp] theorem outer_mk_stories (a : Vector (Option Story) 96) :
    State.outer { s with stories := a } = s.outer := rfl
@[simp] theorem outer_mk_admission (a : List Tag) : State.outer { s with admission := a } = s.outer := rfl
@[simp] theorem outer_mk_feedLists (a : Vector (List Tag) 12) :
    State.outer { s with feedLists := a } = s.outer := rfl
@[simp] theorem outer_mk_index (a : List IndexEntry) : State.outer { s with index := a } = s.outer := rfl
@[simp] theorem outer_mk_history (a : List HistEntry) : State.outer { s with history := a } = s.outer := rfl
@[simp] theorem outer_mk_accounts (a : Vector Account 12) :
    State.outer { s with accounts := a } = s.outer := rfl
@[simp] theorem outer_mk_circuits (a : Vector Circuit 8) :
    State.outer { s with circuits := a } = s.outer := rfl
@[simp] theorem outer_mk_pool (a : Vector (Option Notice) 32) :
    State.outer { s with pool := a } = s.outer := rfl
@[simp] theorem outer_mk_writer (a : Writer) : State.outer { s with writer := a } = s.outer := rfl

/-- A fold of operations that each leave it alone. -/
@[simp] theorem outer_foldl {α : Type} (f : State → α → State) (h : ∀ s a, (f s a).outer = s.outer)
    (l : List α) : (l.foldl f s).outer = s.outer := by
  induction l generalizing s with
  | nil => rfl
  | cons a l ih => rw [List.foldl_cons, ih, h]

/-! ### Access -/

@[simp] theorem outer_setCirc (n : Circ) (c : Circuit) :
    State.outer (State.setCirc s n c) = s.outer := by simp [State.setCirc]

@[simp] theorem outer_updLu (n : Circ) (f : LineUnit → LineUnit) :
    State.outer (State.updLu s n f) = s.outer := by simp [State.updLu]

@[simp] theorem outer_updSch (n : Circ) (f : Sched → Sched) :
    State.outer (State.updSch s n f) = s.outer := by simp [State.updSch]

@[simp] theorem outer_updSnd (n : Circ) (f : Sender → Sender) :
    State.outer (State.updSnd s n f) = s.outer := by simp [State.updSnd]

@[simp] theorem outer_updFtc (n : Circ) (f : Fetcher → Fetcher) :
    State.outer (State.updFtc s n f) = s.outer := by simp [State.updFtc]

@[simp] theorem outer_setFcfg (f : Feed) (c : FeedCfg) :
    State.outer (State.setFcfg s f c) = s.outer := by simp [State.setFcfg]

@[simp] theorem outer_setCtx (f : Feed) (c : FeedCtx) :
    State.outer (State.setCtx s f c) = s.outer := by simp [State.setCtx]

@[simp] theorem outer_updCtx (f : Feed) (g : FeedCtx → FeedCtx) :
    State.outer (State.updCtx s f g) = s.outer := by simp [State.updCtx]

@[simp] theorem outer_setAcct (f : Feed) (a : Account) :
    State.outer (State.setAcct s f a) = s.outer := by simp [State.setAcct]

@[simp] theorem outer_setFlist (f : Feed) (l : List Tag) :
    State.outer (State.setFlist s f l) = s.outer := by simp [State.setFlist]

@[simp] theorem outer_setStory (t : Tag) (x : Option Story) :
    State.outer (State.setStory s t x) = s.outer := by simp [State.setStory]

@[simp] theorem outer_updStory (t : Tag) (f : Story → Story) :
    State.outer (State.updStory s t f) = s.outer := by
  unfold State.updStory
  split <;> simp

@[simp] theorem outer_updDelivery (t : Tag) (n : Circ) (f : Delivery → Delivery) :
    State.outer (State.updDelivery s t n f) = s.outer := by simp [State.updDelivery]

@[simp] theorem outer_setNotice (i : Slot32) (x : Option Notice) :
    State.outer (State.setNotice s i x) = s.outer := by simp [State.setNotice]

@[simp] theorem outer_setWriter (w : Writer) :
    State.outer (State.setWriter s w) = s.outer := by simp [State.setWriter]

/-! ### Ops -/

@[simp] theorem outer_listBytes (off : Nat) (be : BitVec 4) (data : Word32) :
    State.outer (State.listBytes s off be data) = s.outer := by simp [State.listBytes]

@[simp] theorem outer_listZero (o : Nat) :
    State.outer (State.listZero s o) = s.outer := by simp [State.listZero]

@[simp] theorem outer_listStatus (status index : Nat) :
    State.outer (State.listStatus s status index) = s.outer := by simp [State.listStatus]

@[simp] theorem outer_listAck (gen : Byte) (status index : Nat) :
    State.outer (State.listAck s gen status index) = s.outer := by simp [State.listAck]

@[simp] theorem outer_listResult (result : Nat) :
    State.outer (State.listResult s result) = s.outer := by simp [State.listResult]

@[simp] theorem outer_resetSettled :
    State.outer (State.resetSettled s) = s.outer := by
  unfold State.resetSettled
  split <;> simp

@[simp] theorem outer_dropReport (r : Report) :
    State.outer (State.dropReport s r) = s.outer := by
  unfold State.dropReport
  split <;> simp

@[simp] theorem outer_beginReport (r : Report) :
    State.outer (State.beginReport s r) = s.outer := by
  unfold State.beginReport
  split <;> simp

@[simp] theorem outer_post (r : Report) :
    State.outer (State.post s r) = s.outer := by
  unfold State.post
  (repeat' split) <;> simp

@[simp] theorem outer_beginQueued (l : List Report) : (s.beginQueued l).outer = s.outer := by
  induction l generalizing s with
  | nil => rfl
  | cons r rs ih =>
    unfold State.beginQueued
    split
    · rfl
    · simp [ih]

@[simp] theorem outer_pumpReports :
    State.outer (State.pumpReports s) = s.outer := by simp [State.pumpReports]

@[simp] theorem outer_recordVisible (j : RecordJob) :
    State.outer (State.recordVisible s j) = s.outer := by
  simp only [State.recordVisible]
  split <;> simp

@[simp] theorem outer_consumeHead :
    State.outer (State.consumeHead s) = s.outer := by simp [State.consumeHead]

/-! ### Apply -/

@[simp] theorem outer_setMarkWin (f : Feed) (p : PartMark) :
    State.outer (State.setMarkWin s f p) = s.outer := by simp [State.setMarkWin]

@[simp] theorem outer_setMarkRing (p : PartMark) :
    State.outer (State.setMarkRing s p) = s.outer := by simp [State.setMarkRing]

@[simp] theorem outer_setMarkCirc (n : Circ) (p : Bool) :
    State.outer (State.setMarkCirc s n p) = s.outer := by simp [State.setMarkCirc]

@[simp] theorem outer_setWindow (f : Feed) (w : Option Win) :
    State.outer (State.setWindow s f w) = s.outer := by simp [State.setWindow]

@[simp] theorem outer_setRing (w : Option Win) :
    State.outer (State.setRing s w) = s.outer := by simp [State.setRing]

@[simp] theorem outer_retryWin (f : Feed) :
    State.outer (State.retryWin s f) = s.outer := by
  unfold State.retryWin
  split <;> simp

@[simp] theorem outer_retryRing :
    State.outer (State.retryRing s) = s.outer := by
  unfold State.retryRing
  split <;> simp

@[simp] theorem outer_retryAll :
    State.outer (State.retryAll s) = s.outer := by simp [State.retryAll]

@[simp] theorem outer_retryTimes (k : Nat) : (State.retryTimes k s).outer = s.outer := by
  induction k generalizing s with
  | zero => rfl
  | succ k ih => simp [State.retryTimes, ih]

@[simp] theorem outer_reexamine :
    State.outer (State.reexamine s) = s.outer := by
  unfold State.reexamine
  split <;> simp

@[simp] theorem outer_applyCheck :
    State.outer (State.applyCheck s) = s.outer := by
  unfold State.applyCheck
  split <;> simp

@[simp] theorem outer_examineWin (f : Feed) :
    State.outer (State.examineWin s f) = s.outer := by
  simp only [State.examineWin]
  (repeat' split) <;> simp

@[simp] theorem outer_examineRing :
    State.outer (State.examineRing s) = s.outer := by
  simp only [State.examineRing]
  (repeat' split) <;> simp

@[simp] theorem outer_feedBoundary (f : Feed) :
    State.outer (State.feedBoundary s f) = s.outer := by
  unfold State.feedBoundary
  split <;> simp

@[simp] theorem outer_ringBoundary :
    State.outer (State.ringBoundary s) = s.outer := by
  unfold State.ringBoundary
  split <;> simp

/-! ### StoryTable -/

@[simp] theorem outer_warnTest (f : Feed) :
    State.outer (State.warnTest s f) = s.outer := by
  simp only [State.warnTest]
  (repeat' split) <;> simp

@[simp] theorem outer_setAccount (f : Feed) :
    State.outer (State.setAccount s f) = s.outer := by
  unfold State.setAccount
  split <;> simp

@[simp] theorem outer_recompute (f : Feed) :
    State.outer (State.recompute s f) = s.outer := by
  simp only [State.recompute]
  split <;> simp

@[simp] theorem outer_unlink (f : Feed) (t : Tag) :
    State.outer (State.unlink s f t) = s.outer := by
  simp only [State.unlink]
  split <;> simp

@[simp] theorem outer_indexSet (f : Feed) (n : BitVec 16) (t : Tag) :
    State.outer (State.indexSet s f n t) = s.outer := by simp [State.indexSet]

@[simp] theorem outer_indexErase (t : Tag) :
    State.outer (State.indexErase s t) = s.outer := by simp [State.indexErase]

@[simp] theorem outer_historyAdd (h : HistEntry) :
    State.outer (State.historyAdd s h) = s.outer := by simp [State.historyAdd]

@[simp] theorem outer_retireHistory (st : Story) :
    State.outer (State.retireHistory s st) = s.outer := by
  unfold State.retireHistory
  (repeat' split) <;> simp

@[simp] theorem outer_retire (t : Tag) (st : Story) :
    State.outer (State.retire s t st) = s.outer := by simp [State.retire]

@[simp] theorem outer_retireTest (t : Tag) :
    State.outer (State.retireTest s t) = s.outer := by
  unfold State.retireTest
  (repeat' split) <;> simp

@[simp] theorem outer_abandonOnly (t : Tag) (n : Circ) :
    State.outer (State.abandonOnly s t n) = s.outer := by
  unfold State.abandonOnly
  (repeat' split) <;> simp

@[simp] theorem outer_abandon (t : Tag) (n : Circ) :
    State.outer (State.abandon s t n) = s.outer := by simp [State.abandon]

@[simp] theorem outer_releaseRef (i : Slot32) :
    State.outer (State.releaseRef s i) = s.outer := by
  unfold State.releaseRef
  split <;> simp

@[simp] theorem outer_enqueueNew (n : Circ) (i : Item) :
    State.outer (State.enqueueNew s n i) = s.outer := by simp [State.enqueueNew]

@[simp] theorem outer_enqueueBack (n : Circ) (i : Item) :
    State.outer (State.enqueueBack s n i) = s.outer := by simp [State.enqueueBack]

@[simp] theorem outer_dequeue (n : Circ) (i : Item) :
    State.outer (State.dequeue s n i) = s.outer := by simp [State.dequeue]

@[simp] theorem outer_noticeHere (n : Circ) (k : NoticeKind) (x : NoticeSource) :
    State.outer (State.noticeHere s n k x) = s.outer := by
  unfold State.noticeHere
  split <;> simp

/-! ### Sending -/

@[simp] theorem outer_fetchTry (n : Circ) :
    State.outer (State.fetchTry s n) = s.outer := by
  unfold State.fetchTry
  split <;> simp

@[simp] theorem outer_beginSvc (n : Circ) :
    State.outer (State.beginSvc s n) = s.outer := by simp [State.beginSvc]

@[simp] theorem outer_leaveService (n : Circ) :
    State.outer (State.leaveService s n) = s.outer := by simp [State.leaveService]

@[simp] theorem outer_stopNotice (n : Circ) (t : Tag) (st : Story) (stop : StopOrder) :
    State.outer (State.stopNotice s n t st stop) = s.outer := by
  unfold State.stopNotice
  (repeat' split) <;> simp

@[simp] theorem outer_dropPend (n : Circ) :
    State.outer (State.dropPend s n) = s.outer := by simp [State.dropPend]

@[simp] theorem outer_deliveryDone (n : Circ) :
    State.outer (State.deliveryDone s n) = s.outer := by
  unfold State.deliveryDone
  (repeat' split) <;> simp

@[simp] theorem outer_endStop (n : Circ) :
    State.outer (State.endStop s n) = s.outer := by
  unfold State.endStop
  split <;> simp

@[simp] theorem outer_silentStop (n : Circ) :
    State.outer (State.silentStop s n) = s.outer := by
  unfold State.silentStop
  (repeat' split) <;> simp

@[simp] theorem outer_stopLineOrEnd (n : Circ) :
    State.outer (State.stopLineOrEnd s n) = s.outer := by
  unfold State.stopLineOrEnd
  (repeat' split) <;> simp

@[simp] theorem outer_stopHere (n : Circ) :
    State.outer (State.stopHere s n) = s.outer := by
  simp only [State.stopHere]
  split <;> simp

@[simp] theorem outer_preemptDone (n : Circ) :
    State.outer (State.preemptDone s n) = s.outer := by
  simp only [State.preemptDone]
  (repeat' split) <;> simp

@[simp] theorem outer_beginLeave (n : Circ) (k : Leave) :
    State.outer (State.beginLeave s n k) = s.outer := by
  simp only [State.beginLeave]
  split <;> simp

@[simp] theorem outer_enterService (n : Circ) (i : Item) (rest : List Item) :
    State.outer (State.enterService s n i rest) = s.outer := by
  unfold State.enterService
  split <;> simp

@[simp] theorem outer_select (n : Circ) :
    State.outer (State.select s n) = s.outer := by
  unfold State.select
  (repeat' split) <;> simp

@[simp] theorem outer_setPoint (n : Circ) :
    State.outer (State.setPoint s n) = s.outer := by simp [State.setPoint]

@[simp] theorem outer_actAtOnce (n : Circ) :
    State.outer (State.actAtOnce s n) = s.outer := by
  simp only [State.actAtOnce]
  (repeat' split) <;> simp

@[simp] theorem outer_setIdle (n : Circ) :
    State.outer (State.setIdle s n) = s.outer := by simp [State.setIdle]

@[simp] theorem outer_settleLine (n : Circ) :
    State.outer (State.settleLine s n) = s.outer := by simp [State.settleLine]

@[simp] theorem outer_replayCheck (n : Circ) :
    State.outer (State.replayCheck s n) = s.outer := by
  unfold State.replayCheck
  split <;> simp

@[simp] theorem outer_wordTest (n : Circ) :
    State.outer (State.wordTest s n) = s.outer := by
  unfold State.wordTest
  (repeat' split) <;> simp

@[simp] theorem outer_lineTest (n : Circ) (k : NlCause) :
    State.outer (State.lineTest s n k) = s.outer := by
  unfold State.lineTest
  (repeat' split) <;> simp

@[simp] theorem outer_dropCapture (n : Circ) (k : NlCause) :
    State.outer (State.dropCapture s n k) = s.outer := by
  unfold State.dropCapture
  (repeat' split) <;> simp

@[simp] theorem outer_setPhase (n : Circ) (p : Phase) :
    State.outer (State.setPhase s n p) = s.outer := by simp [State.setPhase]

@[simp] theorem outer_enterText (n : Circ) :
    State.outer (State.enterText s n) = s.outer := by simp [State.enterText]

@[simp] theorem outer_lostDone (n : Circ) :
    State.outer (State.lostDone s n) = s.outer := by simp [State.lostDone]

@[simp] theorem outer_noticeSent (n : Circ) :
    State.outer (State.noticeSent s n) = s.outer := by
  unfold State.noticeSent
  split <;> simp

@[simp] theorem outer_headDone (n : Circ) :
    State.outer (State.headDone s n) = s.outer := by
  unfold State.headDone
  split <;> simp

@[simp] theorem outer_svcDone (n : Circ) :
    State.outer (State.svcDone s n) = s.outer := by
  unfold State.svcDone
  split <;> simp

@[simp] theorem outer_openLine (n : Circ) :
    State.outer (State.openLine s n) = s.outer := by
  unfold State.openLine
  split <;> simp

@[simp] theorem outer_nlNext (n : Circ) (k : NlCause) :
    State.outer (State.nlNext s n k) = s.outer := by
  unfold State.nlNext
  (repeat' split) <;> simp

@[simp] theorem outer_lostTest (n : Circ) :
    State.outer (State.lostTest s n) = s.outer := by
  unfold State.lostTest
  split <;> simp

@[simp] theorem outer_wordDone (n : Circ) :
    State.outer (State.wordDone s n) = s.outer := by
  simp only [State.wordDone]
  split <;> simp

@[simp] theorem outer_complete (n : Circ) (m : Mark) :
    State.outer (State.complete s n m) = s.outer := by
  unfold State.complete
  split <;> simp

@[simp] theorem outer_joinSent (n : Circ) (c : SentChar) :
    State.outer (State.joinSent s n c) = s.outer := by
  unfold State.joinSent
  (repeat' split) <;> simp

@[simp] theorem outer_recordChar (n : Circ) (c : SentChar) :
    State.outer (State.recordChar s n c) = s.outer := by
  unfold State.recordChar
  split <;> simp

@[simp] theorem outer_afterRead (n : Circ) (size : Nat) (d : Sender) :
    State.outer (State.afterRead s n size d) = s.outer := by simp [State.afterRead]

@[simp] theorem outer_beginLost (n : Circ) (size : Nat) (u : LUnit) :
    State.outer (State.beginLost s n size u) = s.outer := by
  simp only [State.beginLost]
  split <;> simp

@[simp] theorem outer_storyEnd (n : Circ) (st : Story) :
    State.outer (State.storyEnd s n st) = s.outer := by
  unfold State.storyEnd
  split <;> simp

@[simp] theorem outer_askTurn (n : Circ) :
    State.outer (State.askTurn s n).1 = s.outer := by
  simp only [State.askTurn]
  (repeat' split) <;> simp

@[simp] theorem outer_ask (k : Nat) (n : Circ) : (State.ask k s n).outer = s.outer := by
  induction k generalizing s with
  | zero => rfl
  | succ k ih =>
    simp only [State.ask]
    (repeat' split) <;> simp [ih]

@[simp] theorem outer_holdNewline (n : Circ) :
    State.outer (State.holdNewline s n) = s.outer := by
  simp only [State.holdNewline]
  split <;> simp

@[simp] theorem outer_beginSlot (n : Circ) :
    State.outer (State.beginSlot s n) = s.outer := by
  simp only [State.beginSlot]
  (repeat' split) <;> simp

/-! ### LineUnit -/

@[simp] theorem outer_dropItem (n : Circ) (i : Item) :
    State.outer (State.dropItem n s i) = s.outer := by
  unfold State.dropItem
  split <;> simp

@[simp] theorem outer_emptyQueue (n : Circ) :
    State.outer (State.emptyQueue s n) = s.outer := by simp [State.emptyQueue]

@[simp] theorem outer_stopCore (n : Circ) :
    State.outer (State.stopCore s n) = s.outer := by simp [State.stopCore]

@[simp] theorem outer_dropService (n : Circ) :
    State.outer (State.dropService s n) = s.outer := by
  unfold State.dropService
  split <;> simp

@[simp] theorem outer_circOff (n : Circ) :
    State.outer (State.circOff s n) = s.outer := by simp [State.circOff]

@[simp] theorem outer_circOn (n : Circ) :
    State.outer (State.circOn s n) = s.outer := by simp [State.circOn]

@[simp] theorem outer_circChange (n : Circ) (old new : CircCfg) :
    State.outer (State.circChange s n old new) = s.outer := by
  simp only [State.circChange]
  (repeat' split) <;> simp

@[simp] theorem outer_setCircCfg (n : Circ) (new : CircCfg) :
    State.outer (State.setCircCfg s n new) = s.outer := by
  simp only [State.setCircCfg]
  (repeat' split) <;> simp

@[simp] theorem outer_examineCirc (n : Circ) :
    State.outer (State.examineCirc s n) = s.outer := by
  simp only [State.examineCirc]
  split <;> simp

@[simp] theorem outer_circBoundary (n : Circ) :
    State.outer (State.circBoundary s n) = s.outer := by
  unfold State.circBoundary
  split <;> simp

@[simp] theorem outer_heldCore (n : Circ) :
    State.outer (State.heldCore s n) = s.outer := by simp [State.heldCore]

@[simp] theorem outer_enterRunning (n : Circ) :
    State.outer (State.enterRunning s n) = s.outer := by simp [State.enterRunning]

@[simp] theorem outer_brokenCore (n : Circ) :
    State.outer (State.brokenCore s n) = s.outer := by simp [State.brokenCore]

@[simp] theorem outer_leadSlots (n : Circ) (ends : State → Circ → State)
    (h : ∀ s n, (ends s n).outer = s.outer) : State.outer (State.leadSlots s n ends) = s.outer := by
  simp only [State.leadSlots]
  split <;> simp [h]

@[simp] theorem outer_leadOver (n : Circ) :
    State.outer (State.leadOver s n) = s.outer := by simp [State.leadOver]

@[simp] theorem outer_restartLine (n : Circ) (cap : Capture) :
    State.outer (State.restartLine s n cap) = s.outer := by
  simp only [State.restartLine]
  split <;> simp

@[simp] theorem outer_takeUp (n : Circ) :
    State.outer (State.takeUp s n) = s.outer := by
  unfold State.takeUp
  (repeat' split) <;> simp

@[simp] theorem outer_clearBreak (n : Circ) :
    State.outer (State.clearBreak s n) = s.outer := by
  simp only [State.clearBreak]
  (repeat' split) <;> simp

@[simp] theorem outer_enterBroken (n : Circ) :
    State.outer (State.enterBroken s n) = s.outer := by
  simp only [State.enterBroken]
  split <;> simp

@[simp] theorem outer_faultItem (n : Circ) :
    State.outer (State.faultItem s n) = s.outer := by
  simp only [State.faultItem]
  (repeat' split) <;> simp

@[simp] theorem outer_faultCore (n : Circ) :
    State.outer (State.faultCore s n) = s.outer := by simp [State.faultCore]

@[simp] theorem outer_spaceLimits (n : Circ) :
    State.outer (State.spaceLimits s n) = s.outer := by
  unfold State.spaceLimits
  (repeat' split) <;> simp

@[simp] theorem outer_afterPart (n : Circ) (t : State) (h : t.outer = s.outer) :
    State.outer (State.afterPart s n t) = s.outer := by
  unfold State.afterPart
  split <;> simp [h]

@[simp] theorem outer_enterHeld (n : Circ) :
    State.outer (State.enterHeld s n) = s.outer := by simp [State.enterHeld]

@[simp] theorem outer_leadEnd (n : Circ) :
    State.outer (State.leadEnd s n) = s.outer := by
  simp only [State.leadEnd]
  (repeat' split) <;> simp

@[simp] theorem outer_leadStart (n : Circ) :
    State.outer (State.leadStart s n) = s.outer := by simp [State.leadStart]

@[simp] theorem outer_sched (n : Circ) :
    State.outer (State.sched s n) = s.outer := by
  unfold State.sched
  split <;> simp

@[simp] theorem outer_schedAll :
    State.outer (State.schedAll s) = s.outer := by simp [State.schedAll]

@[simp] theorem outer_enterStopped (n : Circ) :
    State.outer (State.enterStopped s n) = s.outer := by simp [State.enterStopped]

@[simp] theorem outer_restore (n : Circ) :
    State.outer (State.restore s n) = s.outer := by simp [State.restore]

@[simp] theorem outer_enterFault (n : Circ) :
    State.outer (State.enterFault s n) = s.outer := by
  simp only [State.enterFault]
  split <;> simp

@[simp] theorem outer_partTaken (n : Circ) (t : State) (h : t.outer = s.outer) :
    State.outer (State.partTaken s n t) = s.outer := by
  unfold State.partTaken
  (repeat' split) <;> simp [h]

@[simp] theorem outer_leadSlotDone (n : Circ) :
    State.outer (State.leadSlotDone s n) = s.outer := by
  simp only [State.leadSlotDone]
  (repeat' split) <;> simp

@[simp] theorem outer_recordSlot (n : Circ) (k : SlotKind) :
    State.outer (State.recordSlot s n k) = s.outer := by
  unfold State.recordSlot
  split <;> simp

@[simp] theorem outer_starveTell (n : Circ) :
    State.outer (State.starveTell s n) = s.outer := by
  unfold State.starveTell
  split <;> simp

@[simp] theorem outer_nextSlotOrHold (n : Circ) :
    State.outer (State.nextSlotOrHold s n) = s.outer := by
  simp only [State.nextSlotOrHold]
  (repeat' split) <;> simp

@[simp] theorem outer_runSlotDone (n : Circ) (k : SlotKind) :
    State.outer (State.runSlotDone s n k) = s.outer := by
  simp only [State.runSlotDone]
  (repeat' split) <;> simp

@[simp] theorem outer_slotDone (n : Circ) :
    State.outer (State.slotDone s n) = s.outer := by
  unfold State.slotDone
  (repeat' split) <;> simp

/-! ### Kill -/

@[simp] theorem outer_queueNotice (i : Slot32) (n : Circ) :
    State.outer (State.queueNotice i s n) = s.outer := by simp [State.queueNotice]

@[simp] theorem outer_makeNotices (k : NoticeKind) (x : NoticeSource) (targets : List Circ) :
    State.outer (State.makeNotices s k x targets).1 = s.outer := by
  unfold State.makeNotices
  (repeat' split) <;> simp

@[simp] theorem outer_settleDelivery (t : Tag) (k : NoticeKind) (n : Circ) :
    State.outer (State.settleDelivery t k s n) = s.outer := by
  unfold State.settleDelivery
  (repeat' split) <;> simp

@[simp] theorem outer_stopWaited (t : Tag) (n : Circ) :
    State.outer (State.stopWaited t s n) = s.outer := by
  unfold State.stopWaited
  (repeat' split) <;> simp

@[simp] theorem outer_cutUnlink (t : Tag) (st : Story) :
    State.outer (State.cutUnlink s t st) = s.outer := by simp [State.cutUnlink]

@[simp] theorem outer_killMark (src : KillSource) (t : Tag) (st : Story) :
    State.outer (State.killMark s src t st) = s.outer := by
  simp only [State.killMark]
  (repeat' split) <;> simp

@[simp] theorem outer_killDeliveries (src : KillSource) (t : Tag) :
    State.outer (State.killDeliveries s src t) = s.outer := by simp [State.killDeliveries]

@[simp] theorem outer_killFresh (src : KillSource) (t : Tag) (st : Story) :
    State.outer (State.killFresh s src t st) = s.outer := by simp [State.killFresh]

@[simp] theorem outer_cutKilled (t : Tag) (st : Story) :
    State.outer (State.cutKilled s t st) = s.outer := by
  simp [State.cutKilled, apply_ite State.outer]

@[simp] theorem outer_killLive (src : KillSource) (t : Tag) :
    State.outer (State.killLive s src t) = s.outer := by
  unfold State.killLive
  (repeat' split) <;> simp

@[simp] theorem outer_killHistory (src : KillSource) (i : Nat) (h : HistEntry) :
    State.outer (State.killHistory s src i h) = s.outer := by simp [State.killHistory]

@[simp] theorem outer_killNumber (src : KillSource) (f : Feed) (n : BitVec 16) :
    State.outer (State.killNumber s src f n).1 = s.outer := by
  unfold State.killNumber
  (repeat' split) <;> simp

@[simp] theorem outer_reclassOn (t : Tag) (n : Circ) :
    State.outer (State.reclassOn t s n) = s.outer := by
  unfold State.reclassOn
  (repeat' split) <;> simp

@[simp] theorem outer_reclass (t : Tag) (c : StoryClass) :
    State.outer (State.reclass s t c) = s.outer := by
  unfold State.reclass
  (repeat' split) <;> simp

@[simp] theorem outer_feedBlocked (f : Feed) (t : Tag) (st : Story) :
    State.outer (State.feedBlocked s f t st) = s.outer := by
  unfold State.feedBlocked
  split <;> simp

/-! ### Intake -/

@[simp] theorem outer_spikeTest (k : Nat) (f : Feed) : (State.spikeTest k s f).outer = s.outer := by
  induction k generalizing s with
  | zero => rfl
  | succ k ih =>
    simp only [State.spikeTest]
    (repeat' split) <;> simp [ih]

@[simp] theorem outer_clearDry (t : Tag) :
    State.outer (State.clearDry s t) = s.outer := by
  unfold State.clearDry
  (repeat' split) <;> simp

@[simp] theorem outer_settleServing (t : Tag) :
    State.outer (State.settleServing s t) = s.outer := by simp [State.settleServing]

@[simp] theorem outer_growth (t : Tag) (e : Nat) :
    State.outer (State.growth s t e) = s.outer := by simp [State.growth]

@[simp] theorem outer_takeEvent (t : Tag) :
    State.outer (State.takeEvent s t) = s.outer := by simp [State.takeEvent]

@[simp] theorem outer_endStarving (t : Tag) :
    State.outer (State.endStarving s t) = s.outer := by simp [State.endStarving]

@[simp] theorem outer_closeEvent (t : Tag) (e : Nat) (unclosed : Bool) :
    State.outer (State.closeEvent s t e unclosed) = s.outer := by
  unfold State.closeEvent
  (repeat' split) <;> simp

@[simp] theorem outer_passEvent (t : Tag) (unclosed : Bool) :
    State.outer (State.passEvent s t unclosed) = s.outer := by simp [State.passEvent]

@[simp] theorem outer_chooseEntry :
    State.outer (State.chooseEntry s).1 = s.outer := by
  unfold State.chooseEntry
  (repeat' split) <;> simp

@[simp] theorem outer_createDelivery (t : Tag) (textStart : Nat) (n : Circ) :
    State.outer (State.createDelivery t textStart s n) = s.outer := by simp [State.createDelivery]

@[simp] theorem outer_supersede (a : Admission) (t : Tag) :
    State.outer (State.supersede s a t) = s.outer := by
  simp only [State.supersede]
  (repeat' split) <;> simp

@[simp] theorem outer_indexStory (a : Admission) (t : Tag) :
    State.outer (State.indexStory s a t) = s.outer := by
  unfold State.indexStory
  (repeat' split) <;> simp

@[simp] theorem outer_enterStory (a : Admission) (t : Tag) (route : List Circ) :
    State.outer (State.enterStory s a t route) = s.outer := by
  simp only [State.enterStory, outer_recompute, outer_setFlist]
  exact (outer_mk_admission _ _).trans (outer_setStory _ _ _)

@[simp] theorem outer_fillEntry (a : Admission) (t : Tag) :
    State.outer (State.fillEntry s a t) = s.outer := by simp [State.fillEntry]

@[simp] theorem outer_admitStory (a : Admission) :
    State.outer (State.admitStory s a).1 = s.outer := by
  simp only [State.admitStory]
  split <;> simp

@[simp] theorem outer_advance (f : Feed) :
    State.outer (State.advance s f) = s.outer := by simp [State.advance]

@[simp] theorem outer_setParse (f : Feed) (p : Parse) :
    State.outer (State.setParse s f p) = s.outer := by simp [State.setParse]

@[simp] theorem outer_beginHeader (f : Feed) :
    State.outer (State.beginHeader s f) = s.outer := by simp [State.beginHeader]

@[simp] theorem outer_closeToBetween (f : Feed) :
    State.outer (State.closeToBetween s f) = s.outer := by simp [State.closeToBetween]

@[simp] theorem outer_looseByte (f : Feed) :
    State.outer (State.looseByte s f) = s.outer := by
  simp only [State.looseByte]
  split <;> simp

@[simp] theorem outer_parseBetween (f : Feed) (b : Byte) :
    State.outer (State.parseBetween s f b) = s.outer := by
  unfold State.parseBetween
  (repeat' split) <;> simp

@[simp] theorem outer_endHeader (f : Feed) (openOff : Nat) (stored : List Byte) (full : Bool) :
    State.outer (State.endHeader s f openOff stored full) = s.outer := by
  simp only [State.endHeader]
  split <;> simp

@[simp] theorem outer_parseHeaderByte (f : Feed) (openOff count : Nat) (stored : List Byte) (b : Byte) :
    State.outer (State.parseHeaderByte s f openOff count stored b) = s.outer := by
  unfold State.parseHeaderByte
  (repeat' split) <;> simp

@[simp] theorem outer_parseText (f : Feed) (t : Tag) (b : Byte) :
    State.outer (State.parseText s f t b) = s.outer := by
  unfold State.parseText
  (repeat' split) <;> simp

@[simp] theorem outer_passAttached (tag : Option Tag) (unclosed : Bool) :
    State.outer (State.passAttached s tag unclosed) = s.outer := by
  unfold State.passAttached
  split <;> simp

@[simp] theorem outer_parseDiscard (f : Feed) (tag : Option Tag) (b : Byte) :
    State.outer (State.parseDiscard s f tag b) = s.outer := by
  unfold State.parseDiscard
  (repeat' split) <;> simp

@[simp] theorem outer_directive (f : Feed) (k v : Nat) :
    State.outer (State.directive s f k v) = s.outer := by
  simp only [State.directive]
  (repeat' split) <;> simp

@[simp] theorem outer_returnBetween (f : Feed) (b : Byte) :
    State.outer (State.returnBetween s f b) = s.outer := by
  simp only [State.returnBetween]
  split <;> simp

@[simp] theorem outer_returnParse (f : Feed) (b : Byte) :
    State.outer (State.returnParse s f b) = s.outer := by
  unfold State.returnParse
  split <;> simp

@[simp] theorem outer_parseKillnum (f : Feed) (ret : Ret) (k v : Nat) (b : Byte) :
    State.outer (State.parseKillnum s f ret k v b) = s.outer := by
  unfold State.parseKillnum
  split <;> simp

@[simp] theorem outer_parseByte (f : Feed) (b : Byte) :
    State.outer (State.parseByte s f b) = s.outer := by
  unfold State.parseByte
  split <;> simp

@[simp] theorem outer_parseBytes (f : Feed) (l : List Byte) : (State.parseBytes f l s).outer = s.outer := by
  induction l generalizing s with
  | nil => rfl
  | cons b bs ih =>
    simp only [State.parseBytes]
    (repeat' split) <;> simp [ih]

@[simp] theorem outer_intakeCut (f : Feed) (t : Tag) :
    State.outer (State.intakeCut s f t) = s.outer := by
  unfold State.intakeCut
  split <;> simp

@[simp] theorem outer_cutLoop (f : Feed) (n k : Nat) : (State.cutLoop f n k s).outer = s.outer := by
  induction k generalizing s with
  | zero => rfl
  | succ k ih =>
    simp only [State.cutLoop]
    (repeat' split) <;> simp [ih]

@[simp] theorem outer_overrunTest (f : Feed) (n : Nat) :
    State.outer (State.overrunTest s f n) = s.outer := by
  simp only [State.overrunTest]
  (repeat' split) <;> simp

@[simp] theorem outer_strayWrite (f : Feed) (addr : Nat) :
    State.outer (State.strayWrite s f addr) = s.outer := by
  simp only [State.strayWrite]
  split <;> simp

@[simp] theorem outer_growthStep (f : Feed) :
    State.outer (State.growthStep s f) = s.outer := by
  unfold State.growthStep
  (repeat' split) <;> simp

@[simp] theorem outer_accountStep (f : Feed) :
    State.outer (State.accountStep s f) = s.outer := by
  unfold State.accountStep
  split <;> simp

@[simp] theorem outer_takeWrite (f : Feed) (bytes : List Byte) :
    State.outer (State.takeWrite s f bytes) = s.outer := by simp [State.takeWrite]

@[simp] theorem outer_feedWrite (f : Feed) (off : Nat) (be : BitVec 4) (d : Word32) :
    State.outer (State.feedWrite s f off be d) = s.outer := by
  unfold State.feedWrite
  split <;> simp

/-! ### Requests -/

@[simp] theorem outer_holdReq (n : Circ) :
    State.outer (State.holdReq s n) = s.outer := by
  unfold State.holdReq
  split <;> simp

@[simp] theorem outer_takeUpIfDue (n : Circ) :
    State.outer (State.takeUpIfDue s n) = s.outer := by
  unfold State.takeUpIfDue
  split <;> simp

@[simp] theorem outer_releaseReq (n : Circ) :
    State.outer (State.releaseReq s n) = s.outer := by
  unfold State.releaseReq
  (repeat' split) <;> simp

@[simp] theorem outer_clearReq (n : Circ) :
    State.outer (State.clearReq s n) = s.outer := by simp [State.clearReq]

@[simp] theorem outer_stopMotorReq (n : Circ) :
    State.outer (State.stopMotorReq s n) = s.outer := by
  unfold State.stopMotorReq
  split <;> simp

@[simp] theorem outer_killTagReq :
    State.outer (State.killTagReq s) = s.outer := by
  unfold State.killTagReq
  split <;> simp

@[simp] theorem outer_reclassReq :
    State.outer (State.reclassReq s) = s.outer := by
  unfold State.reclassReq
  (repeat' split) <;> simp

@[simp] theorem outer_capture :
    State.outer (State.capture s) = s.outer := by simp [State.capture]

@[simp] theorem outer_snapshotReq :
    State.outer (State.snapshotReq s) = s.outer := by
  unfold State.snapshotReq
  split <;> simp

@[simp] theorem outer_idleExpire (n : Circ) :
    State.outer (State.idleExpire s n) = s.outer := by
  unfold State.idleExpire
  split <;> simp

@[simp] theorem outer_starveReached (n : Circ) :
    State.outer (State.starveReached s n) = s.outer := by
  unfold State.starveReached
  split <;> simp

@[simp] theorem outer_breakReached (n : Circ) :
    State.outer (State.breakReached s n) = s.outer := by
  simp only [State.breakReached]
  (repeat' split) <;> simp

@[simp] theorem outer_faultReached (n : Circ) :
    State.outer (State.faultReached s n) = s.outer := by
  simp only [State.faultReached]
  (repeat' split) <;> simp

@[simp] theorem outer_forceMark (n : Circ) :
    State.outer (State.forceMark s n) = s.outer := by simp [State.forceMark]

@[simp] theorem outer_clearReached (n : Circ) :
    State.outer (State.clearReached s n) = s.outer := by
  unfold State.clearReached
  split <;> simp

@[simp] theorem outer_restoreReached (n : Circ) :
    State.outer (State.restoreReached s n) = s.outer := by
  unfold State.restoreReached
  split <;> simp

@[simp] theorem outer_senseLevel (n : Circ) (asserted : Bool) :
    State.outer (State.senseLevel s n asserted) = s.outer := by
  unfold State.senseLevel
  split <;> simp

end Sys2Proof.Machine
end

