-- ==== Sys2Proof/Laws/Reports.lean ====
section
/-! SUPPORT. Every operation of the part keeps the laws of the Report Writer and of the window set. -/

namespace Sys2Proof.Machine

variable {s : State}

/-! ### Record updates -/

/-- The laws read the Report Writer, the applied windows and ring, and PAGE. -/
theorem State.Lawful.congr {t : State} (h : s.Lawful) (hw : t.writer = s.writer)
    (hr : t.applied.ring = s.applied.ring) (hf : ∀ f, (t.fcfg f).win = (s.fcfg f).win)
    (hp : t.bus.page = s.bus.page) : t.Lawful := by
  have hg : t.appliedRegions = s.appliedRegions := by simp only [State.appliedRegions, hr, hf]
  have hq : t.page = s.page := by simp only [State.page, hp]
  refine ⟨by rw [hw, hr]; exact h.writer, ?_, ?_, ?_⟩
  · rw [hg]; exact h.placed.aligned
  · rw [hg]; exact h.placed.apart
  · rw [hg, hq]; exact h.placed.page

/-- The applied windows, ring and PAGE may stand while the Report Writer changes lawfully. -/
theorem State.Lawful.withWriter (h : s.Lawful) {w : Writer} (hw : w.Lawful s.applied.ring) :
    (s.setWriter w).Lawful := ⟨hw, h.placed.aligned, h.placed.apart, h.placed.page⟩

theorem lawful_mk_bus (h : s.Lawful) (b : Bus) (hb : b.page = s.bus.page) : State.Lawful { s with bus := b } :=
  State.Lawful.congr h rfl rfl (fun _ => rfl) hb
@[simp] theorem lawful_mk_mirror (h : s.Lawful) (m : Mirror) : State.Lawful { s with mirror := m } :=
  State.Lawful.congr h rfl rfl (fun _ => rfl) rfl
theorem lawful_mk_applied (h : s.Lawful) (a : Applied) (ha : a.ring = s.applied.ring)
    (hf : ∀ f : Feed, (vget a.feeds f).win = (s.fcfg f).win) : State.Lawful { s with applied := a } :=
  State.Lawful.congr h rfl ha hf rfl
@[simp] theorem lawful_mk_intake (h : s.Lawful) (a : Vector FeedCtx 12) :
    State.Lawful { s with intake := a } :=
  State.Lawful.congr h rfl rfl (fun _ => rfl) rfl
@[simp] theorem lawful_mk_stories (h : s.Lawful) (a : Vector (Option Story) 96) :
    State.Lawful { s with stories := a } :=
  State.Lawful.congr h rfl rfl (fun _ => rfl) rfl
@[simp] theorem lawful_mk_admission (h : s.Lawful) (a : List Tag) : State.Lawful { s with admission := a } :=
  State.Lawful.congr h rfl rfl (fun _ => rfl) rfl
@[simp] theorem lawful_mk_feedLists (h : s.Lawful) (a : Vector (List Tag) 12) :
    State.Lawful { s with feedLists := a } :=
  State.Lawful.congr h rfl rfl (fun _ => rfl) rfl
@[simp] theorem lawful_mk_index (h : s.Lawful) (a : List IndexEntry) : State.Lawful { s with index := a } :=
  State.Lawful.congr h rfl rfl (fun _ => rfl) rfl
@[simp] theorem lawful_mk_history (h : s.Lawful) (a : List HistEntry) : State.Lawful { s with history := a } :=
  State.Lawful.congr h rfl rfl (fun _ => rfl) rfl
@[simp] theorem lawful_mk_accounts (h : s.Lawful) (a : Vector Account 12) :
    State.Lawful { s with accounts := a } :=
  State.Lawful.congr h rfl rfl (fun _ => rfl) rfl
@[simp] theorem lawful_mk_circuits (h : s.Lawful) (a : Vector Circuit 8) :
    State.Lawful { s with circuits := a } :=
  State.Lawful.congr h rfl rfl (fun _ => rfl) rfl
@[simp] theorem lawful_mk_pool (h : s.Lawful) (a : Vector (Option Notice) 32) :
    State.Lawful { s with pool := a } :=
  State.Lawful.congr h rfl rfl (fun _ => rfl) rfl
@[simp] theorem lawful_mk_mem (h : s.Lawful) (a : Memory) : State.Lawful { s with mem := a } :=
  State.Lawful.congr h rfl rfl (fun _ => rfl) rfl
@[simp] theorem lawful_mk_freeCount (h : s.Lawful) (a : Nat) : State.Lawful { s with freeCount := a } :=
  State.Lawful.congr h rfl rfl (fun _ => rfl) rfl
@[simp] theorem lawful_mk_pending (h : s.Lawful) (a : List Instr) : State.Lawful { s with pending := a } :=
  State.Lawful.congr h rfl rfl (fun _ => rfl) rfl

/-- A fold of operations that each keep the laws. -/
@[simp] theorem lawful_foldl {α : Type} (h : s.Lawful) (f : State → α → State)
    (hf : ∀ s a, s.Lawful → (f s a).Lawful) (l : List α) : (l.foldl f s).Lawful := by
  induction l generalizing s with
  | nil => exact h
  | cons a l ih => exact ih (hf _ _ h)

theorem ringSlots_pos (c : Nat) : 16 ≤ ringSlots c := by unfold ringSlots; split <;> omega

theorem satInc_le {top n : Nat} (h : n ≤ top) : satInc top n ≤ top := by unfold satInc; split <;> omega

/-! ### Access -/

@[simp] theorem lawful_setCirc (h : s.Lawful) (n : Circ) (c : Circuit) :
    State.Lawful (State.setCirc s n c) := by simp [State.setCirc, h]

@[simp] theorem lawful_updLu (h : s.Lawful) (n : Circ) (f : LineUnit → LineUnit) :
    State.Lawful (State.updLu s n f) := by simp [State.updLu, h]

@[simp] theorem lawful_updSch (h : s.Lawful) (n : Circ) (f : Sched → Sched) :
    State.Lawful (State.updSch s n f) := by simp [State.updSch, h]

@[simp] theorem lawful_updSnd (h : s.Lawful) (n : Circ) (f : Sender → Sender) :
    State.Lawful (State.updSnd s n f) := by simp [State.updSnd, h]

@[simp] theorem lawful_updFtc (h : s.Lawful) (n : Circ) (f : Fetcher → Fetcher) :
    State.Lawful (State.updFtc s n f) := by simp [State.updFtc, h]

theorem lawful_setFcfg (h : s.Lawful) (f : Feed) (c : FeedCfg) (hc : c.win = (s.fcfg f).win) :
    State.Lawful (State.setFcfg s f c) := by
  refine lawful_mk_applied h _ rfl fun g => ?_
  by_cases hg : f = g
  · subst hg; simp [hc]
  · simp [hg, State.fcfg]

@[simp] theorem lawful_setCtx (h : s.Lawful) (f : Feed) (c : FeedCtx) :
    State.Lawful (State.setCtx s f c) := by simp [State.setCtx, h]

@[simp] theorem lawful_updCtx (h : s.Lawful) (f : Feed) (g : FeedCtx → FeedCtx) :
    State.Lawful (State.updCtx s f g) := by simp [State.updCtx, h]

@[simp] theorem lawful_setAcct (h : s.Lawful) (f : Feed) (a : Account) :
    State.Lawful (State.setAcct s f a) := by simp [State.setAcct, h]

@[simp] theorem lawful_setFlist (h : s.Lawful) (f : Feed) (l : List Tag) :
    State.Lawful (State.setFlist s f l) := by simp [State.setFlist, h]

@[simp] theorem lawful_setStory (h : s.Lawful) (t : Tag) (x : Option Story) :
    State.Lawful (State.setStory s t x) := by simp [State.setStory, h]

@[simp] theorem lawful_updStory (h : s.Lawful) (t : Tag) (f : Story → Story) :
    State.Lawful (State.updStory s t f) := by
  unfold State.updStory
  split <;> simp [h]

@[simp] theorem lawful_updDelivery (h : s.Lawful) (t : Tag) (n : Circ) (f : Delivery → Delivery) :
    State.Lawful (State.updDelivery s t n f) := by simp [State.updDelivery, h]

@[simp] theorem lawful_setNotice (h : s.Lawful) (i : Slot32) (x : Option Notice) :
    State.Lawful (State.setNotice s i x) := by simp [State.setNotice, h]

/-! ### Ops -/

@[simp] theorem lawful_listBytes (h : s.Lawful) (off : Nat) (be : BitVec 4) (data : Word32) :
    State.Lawful (State.listBytes s off be data) := by simp [State.listBytes, h]

@[simp] theorem lawful_listZero (h : s.Lawful) (o : Nat) :
    State.Lawful (State.listZero s o) := by simp [State.listZero, h]

@[simp] theorem lawful_listStatus (h : s.Lawful) (status index : Nat) :
    State.Lawful (State.listStatus s status index) := by simp [State.listStatus, h]

@[simp] theorem lawful_listAck (h : s.Lawful) (gen : Byte) (status index : Nat) :
    State.Lawful (State.listAck s gen status index) := by simp [State.listAck, h]

@[simp] theorem lawful_listResult (h : s.Lawful) (result : Nat) :
    State.Lawful (State.listResult s result) := by simp [State.listResult, h]

@[simp] theorem lawful_resetSettled (h : s.Lawful)  :
    State.Lawful (State.resetSettled s) := by
  unfold State.resetSettled
  split <;> simp [h]

@[simp] theorem lawful_dropReport (h : s.Lawful) (r : Report) : (s.dropReport r).Lawful := by
  have h' : State.Lawful (s.setWriter { s.writer with lost := satInc 65535 s.writer.lost }) :=
    have w := h.writer
    h.withWriter ⟨w.queue, satInc_le w.lost, w.flags, w.attn, w.fits, w.head, w.tail⟩
  simp only [State.dropReport]
  split <;> simp [h']

/-- With no record in writing, a report that is begun fits the ring (R159). -/
theorem lawful_beginReport (h : s.Lawful) (hr : s.writer.rec_ = none) (r : Report) :
    (s.beginReport r).Lawful := by
  have w := h.writer
  unfold State.beginReport
  split
  · rename_i ho
    refine h.withWriter ⟨w.queue, Nat.zero_le _, w.flags, w.attn, fun v hv => ?_, w.head, w.tail⟩
    simp only [State.ringOpen, hv, decide_eq_true_eq] at ho
    simpa using ho
  · exact lawful_dropReport h r

@[simp] theorem lawful_post (h : s.Lawful) (r : Report) : (s.post r).Lawful := by
  have w := h.writer
  unfold State.post
  split
  · rename_i hc
    simp only [Bool.and_eq_true, Option.isNone_iff_eq_none] at hc
    exact lawful_beginReport h hc.1 r
  · split
    · exact lawful_dropReport h r
    · exact h.withWriter ⟨by simp only [List.length_append, List.length_singleton]; omega, w.lost, w.flags,
        w.attn, w.fits, w.head, w.tail⟩

theorem lawful_beginQueued (l : List Report) (h : s.Lawful) (hl : l.length ≤ 4) :
    (s.beginQueued l).Lawful := by
  induction l generalizing s with
  | nil => exact h
  | cons r rs ih =>
    simp only [List.length_cons] at hl
    unfold State.beginQueued
    split
    · exact h
    · rename_i hr
      have w := h.writer
      have hr' : s.writer.rec_ = none := by simpa using hr
      have hw : (s.setWriter { s.writer with queue := rs }).Lawful :=
        h.withWriter ⟨by show rs.length ≤ 4; omega, w.lost, w.flags, w.attn, w.fits, w.head, w.tail⟩
      exact ih (lawful_beginReport hw hr' r) (by omega)

@[simp] theorem lawful_pumpReports (h : s.Lawful) : s.pumpReports.Lawful :=
  lawful_beginQueued _ h h.writer.queue

/-- The record in writing becomes one more unconsumed record at the tail (R160). -/
theorem lawful_recordVisible (h : s.Lawful) (hr : s.writer.rec_.isSome) (j : RecordJob) :
    (s.recordVisible j).Lawful := by
  have w := h.writer
  have h' : State.Lawful (s.setWriter { s.writer with
      rec_ := none
      tail := s.nextSlot s.writer.tail
      count := s.writer.count + 1
      flags := s.writer.flags ++ [j.flag]
      attn := if j.flag then s.writer.attn + 1 else s.writer.attn }) := by
    refine h.withWriter ⟨w.queue, w.lost, ?_, ?_, fun v hv => ?_, w.head, fun v hv => ?_⟩
    · simp [w.flags]
    · cases hj : j.flag <;> simp [w.attn]
    · have := w.fits v hv
      simp only [hr, if_true] at this
      simpa using this
    · simp only [State.nextSlot, hv, w.tail v hv]
      simp only [Nat.mod_add_mod, Nat.add_assoc]
  simp only [State.recordVisible]
  split <;> simp [h']

/-- The head record is one unconsumed record less (R161). -/
theorem lawful_consumeHead (h : s.Lawful) (hc : 0 < s.writer.count) : s.consumeHead.Lawful := by
  have w := h.writer
  have hf := w.flags
  have ha := w.attn
  obtain ⟨b, bs, hb⟩ : ∃ b bs, s.writer.flags = b :: bs := by
    cases hb : s.writer.flags with
    | nil => simp [hb] at hf; omega
    | cons b bs => exact ⟨b, bs, rfl⟩
  rw [hb] at hf ha
  simp only [List.length_cons] at hf
  refine h.withWriter ⟨w.queue, w.lost, ?_, ?_, fun v hv => ?_, fun v hv => ?_, fun v hv => ?_⟩
  · simp only [hb, List.tail_cons]; omega
  · cases b <;> simp_all
  · have := w.fits v hv
    exact le_trans (Nat.add_le_add_right (Nat.sub_le _ _) _) this
  · have hp := ringSlots_pos v.code
    simp only [State.nextSlot, hv]
    exact Nat.mod_lt _ (by omega)
  · have e : s.writer.head + 1 + (s.writer.count - 1) = s.writer.head + s.writer.count := by omega
    simp only [State.nextSlot, hv, w.tail v hv, Nat.mod_add_mod, e]

/-! ### Apply -/

@[simp] theorem lawful_setMarkWin (h : s.Lawful) (f : Feed) (p : PartMark) :
    State.Lawful (State.setMarkWin s f p) := by simp [State.setMarkWin, h]

@[simp] theorem lawful_setMarkRing (h : s.Lawful) (p : PartMark) :
    State.Lawful (State.setMarkRing s p) := by simp [State.setMarkRing, h]

@[simp] theorem lawful_setMarkCirc (h : s.Lawful) (n : Circ) (p : Bool) :
    State.Lawful (State.setMarkCirc s n p) := by simp [State.setMarkCirc, h]

/-! The window set (R4, R20, R23). -/

theorem overlap_comm (a x b y : Nat) : overlap a x b y = overlap b y a x := Bool.and_comm _ _

/-- The window set with one entry replaced by a region that clashes with no other keeps its laws. -/
theorem placed_replace {t : State} (h : s.Placed) (e : Nat) (rs : List Region) (hp : t.page = s.page)
    (hn : ∀ r ∈ rs, r.entry = e ∧ r.base % r.size = 0 ∧ r.clashes s.page s.appliedRegions = false)
    (hs : ∀ r ∈ t.appliedRegions, r ∈ rs ∨ r ∈ s.appliedRegions) : t.Placed := by
  have hc : ∀ r ∈ rs, overlap r.base r.size s.page pageSize = false ∧ ∀ q ∈ s.appliedRegions, r.entry ≠ q.entry →
      overlap r.base r.size q.base q.size = false := by
    intro r hr
    have := (hn r hr).2.2
    simp only [Region.clashes, Bool.or_eq_false_iff, List.any_eq_false, Bool.and_eq_true, bne_iff_ne, ne_eq,
      not_and, Bool.not_eq_true] at this
    exact ⟨this.1, fun q hq hne => this.2 q hq (Ne.symm hne)⟩
  refine ⟨fun r hr => ?_, fun r hr q hq hne => ?_, fun r hr => ?_⟩
  · rcases hs r hr with hr | hr
    · exact (hn r hr).2.1
    · exact h.aligned r hr
  · rcases hs r hr with hr | hr <;> rcases hs q hq with hq | hq
    · exact absurd ((hn r hr).1.trans (hn q hq).1.symm) hne
    · exact (hc r hr).2 q hq hne
    · rw [overlap_comm]; exact (hc q hq).2 r hr (Ne.symm hne)
    · exact h.apart r hr q hq hne
  · rw [hp]
    rcases hs r hr with hr | hr
    · exact (hc r hr).1
    · exact h.page r hr

/-- A feed window is replaced by one that fits: none, or a staged window that is not blocked (R23, R24). -/
theorem lawful_setWindow (h : s.Lawful) (f : Feed) (w : Option Win)
    (ha : ∀ r ∈ regionOfFeed f w, r.base % r.size = 0) (hb : s.winBlocked f w = false) :
    State.Lawful (State.setWindow s f w) := by
  refine ⟨h.writer, placed_replace h.placed f.1 (regionOfFeed f w) rfl (fun r hr => ⟨?_, ha r hr, ?_⟩) fun r hr => ?_⟩
  · cases w <;> simp [regionOfFeed] at hr
    rw [hr]
  · simp only [State.winBlocked, List.any_eq_false, Bool.not_eq_true] at hb
    exact hb r hr
  · simp only [State.appliedRegions, List.mem_append, List.mem_flatMap] at hr ⊢
    rcases hr with ⟨g, hg, hr⟩ | hr
    · by_cases hfg : f = g
      · subst hfg
        left
        have : ((s.setWindow f w).fcfg f).win = w := by
          show (vget (vset s.applied.feeds f _) f).win = w
          simp
        rwa [this] at hr
      · right; left
        refine ⟨g, hg, ?_⟩
        have : ((s.setWindow f w).fcfg g).win = (s.fcfg g).win := by
          show (vget (vset s.applied.feeds f _) g).win = _
          rw [vget_vset_ne _ _ hfg]; rfl
        rwa [this] at hr
    · right; right; exact hr

theorem stagedWin_aligned (m : Memory) (f : Feed) : ∀ r ∈ regionOfFeed f (stagedWin m f), r.base % r.size = 0 := by
  intro r hr
  simp only [stagedWin] at hr
  split at hr
  · simp [regionOfFeed] at hr
  · simp only [regionOfFeed, List.mem_singleton] at hr
    rw [hr]
    exact Nat.mul_mod_left _ _

theorem stagedRing_aligned (m : Memory) : ∀ r ∈ regionOfRing (stagedRing m), r.base % r.size = 0 := by
  intro r hr
  simp only [stagedRing] at hr
  split at hr
  · simp [regionOfRing] at hr
  · simp only [regionOfRing, List.mem_singleton] at hr
    rw [hr]
    exact Nat.mul_mod_left _ _

/-- A vacated feed entry has no region (R23). -/
@[simp] theorem lawful_setWindow_none (h : s.Lawful) (f : Feed) : (s.setWindow f none).Lawful :=
  lawful_setWindow h f none (by simp [regionOfFeed]) (by simp [State.winBlocked, regionOfFeed])

/-- The report ring is replaced by one that fits (R23, R24, R164). -/
theorem lawful_setRing (h : s.Lawful) (w : Option Win) (ha : ∀ r ∈ regionOfRing w, r.base % r.size = 0)
    (hb : s.ringBlocked w = false) : (s.setRing w).Lawful := by
  refine lawful_pumpReports ⟨⟨h.writer.queue, h.writer.lost, rfl, rfl, fun v _ => ?_, fun v _ => ?_, fun v _ => ?_⟩,
    placed_replace h.placed 12 (regionOfRing w) rfl (fun r hr => ⟨?_, ha r hr, ?_⟩) fun r hr => ?_⟩
  · have := ringSlots_pos v.code
    cases hr : s.writer.rec_ <;> simp [hr] <;> omega
  · have := ringSlots_pos v.code
    simp only [setWriter_writer]; omega
  · simp
  · cases w <;> simp [regionOfRing] at hr
    rw [hr]
  · simp only [State.ringBlocked, List.any_eq_false, Bool.not_eq_true] at hb
    exact hb r hr
  · simp only [State.appliedRegions, List.mem_append] at hr ⊢
    rcases hr with hr | hr
    · right; left; exact hr
    · left; exact hr

/-- A vacated ring has no region (R23). -/
@[simp] theorem lawful_setRing_none (h : s.Lawful) : (s.setRing none).Lawful :=
  lawful_setRing h none (by simp [regionOfRing]) (by simp [State.ringBlocked, regionOfRing])

@[simp] theorem lawful_retryWin (h : s.Lawful) (f : Feed) :
    State.Lawful (State.retryWin s f) := by
  unfold State.retryWin
  split
  · rename_i hc
    simp only [Bool.and_eq_true, Bool.not_eq_true'] at hc
    exact lawful_setMarkWin (lawful_setWindow h f _ (stagedWin_aligned _ f) hc.2) f .clear
  · exact h

@[simp] theorem lawful_retryRing (h : s.Lawful) :
    State.Lawful (State.retryRing s) := by
  unfold State.retryRing
  split
  · rename_i hc
    simp only [Bool.and_eq_true, Bool.not_eq_true'] at hc
    exact lawful_setMarkRing (lawful_setRing h _ (stagedRing_aligned _) hc.2) .clear
  · exact h

@[simp] theorem lawful_retryAll (h : s.Lawful)  :
    State.Lawful (State.retryAll s) := by
  exact lawful_retryRing (lawful_foldl h _ (fun _ _ h => lawful_retryWin h _) _)

@[simp] theorem lawful_retryTimes (h : s.Lawful) (k : Nat) : (State.retryTimes k s).Lawful := by
  induction k generalizing s with
  | zero => exact h
  | succ k ih => exact ih (by simp [h])

@[simp] theorem lawful_reexamine (h : s.Lawful)  :
    State.Lawful (State.reexamine s) := by
  unfold State.reexamine
  split <;> simp [h]

@[simp] theorem lawful_applyCheck (h : s.Lawful)  :
    State.Lawful (State.applyCheck s) := by
  simp (disch := simp (disch := simp [h]) [h]) [State.applyCheck, h, apply_ite State.Lawful]

@[simp] theorem lawful_examineWin (h : s.Lawful) (f : Feed) :
    State.Lawful (State.examineWin s f) := by
  simp only [State.examineWin]
  split
  · exact lawful_applyCheck (lawful_reexamine (lawful_setMarkWin h _ _))
  · split
    · exact lawful_setMarkWin (lawful_setWindow_none h f) _ _
    · rename_i hb
      exact lawful_applyCheck (lawful_reexamine (lawful_setMarkWin
        (lawful_setWindow h f _ (stagedWin_aligned _ f) (by simpa using hb)) _ _))

@[simp] theorem lawful_examineRing (h : s.Lawful) :
    State.Lawful (State.examineRing s) := by
  simp only [State.examineRing]
  split
  · exact lawful_applyCheck (lawful_reexamine (lawful_setMarkRing h _))
  · split
    · exact lawful_setMarkRing (lawful_setRing_none h) _
    · rename_i hb
      exact lawful_applyCheck (lawful_reexamine (lawful_setMarkRing
        (lawful_setRing h _ (stagedRing_aligned _) (by simpa using hb)) _))

@[simp] theorem lawful_feedBoundary (h : s.Lawful) (f : Feed) :
    State.Lawful (State.feedBoundary s f) := by
  unfold State.feedBoundary
  split <;> simp [h]

@[simp] theorem lawful_ringBoundary (h : s.Lawful)  :
    State.Lawful (State.ringBoundary s) := by
  unfold State.ringBoundary
  split <;> simp [h]

/-! ### StoryTable -/

@[simp] theorem lawful_warnTest (h : s.Lawful) (f : Feed) :
    State.Lawful (State.warnTest s f) := by
  simp only [State.warnTest]
  (repeat' split) <;> simp [h]

@[simp] theorem lawful_setAccount (h : s.Lawful) (f : Feed) :
    State.Lawful (State.setAccount s f) := by
  unfold State.setAccount
  split <;> simp [h]

@[simp] theorem lawful_recompute (h : s.Lawful) (f : Feed) :
    State.Lawful (State.recompute s f) := by
  simp only [State.recompute]
  (repeat' split) <;> simp [h]

@[simp] theorem lawful_unlink (h : s.Lawful) (f : Feed) (t : Tag) :
    State.Lawful (State.unlink s f t) := by
  simp only [State.unlink]
  (repeat' split) <;> simp [h]

@[simp] theorem lawful_indexSet (h : s.Lawful) (f : Feed) (n : BitVec 16) (t : Tag) :
    State.Lawful (State.indexSet s f n t) := by simp [State.indexSet, h]

@[simp] theorem lawful_indexErase (h : s.Lawful) (t : Tag) :
    State.Lawful (State.indexErase s t) := by simp [State.indexErase, h]

@[simp] theorem lawful_historyAdd (h : s.Lawful) (he : HistEntry) :
    State.Lawful (State.historyAdd s he) := by simp [State.historyAdd, h]

@[simp] theorem lawful_retireHistory (h : s.Lawful) (st : Story) :
    State.Lawful (State.retireHistory s st) := by
  simp only [State.retireHistory]
  (repeat' split) <;> simp [h]

@[simp] theorem lawful_retire (h : s.Lawful) (t : Tag) (st : Story) :
    State.Lawful (State.retire s t st) := by
  exact lawful_feedBoundary (lawful_setStory (lawful_post (lawful_recompute (lawful_unlink (lawful_mk_admission
    (lawful_indexErase (lawful_retireHistory h _) _) _) _ _) _) _) _ _) _

@[simp] theorem lawful_retireTest (h : s.Lawful) (t : Tag) :
    State.Lawful (State.retireTest s t) := by
  simp only [State.retireTest]
  (repeat' split) <;> simp [h]

@[simp] theorem lawful_abandonOnly (h : s.Lawful) (t : Tag) (n : Circ) :
    State.Lawful (State.abandonOnly s t n) := by
  simp only [State.abandonOnly]
  (repeat' split) <;> simp [h]

@[simp] theorem lawful_abandon (h : s.Lawful) (t : Tag) (n : Circ) :
    State.Lawful (State.abandon s t n) := by simp [State.abandon, h]

@[simp] theorem lawful_releaseRef (h : s.Lawful) (i : Slot32) :
    State.Lawful (State.releaseRef s i) := by
  unfold State.releaseRef
  split <;> simp [h]

@[simp] theorem lawful_enqueueNew (h : s.Lawful) (n : Circ) (i : Item) :
    State.Lawful (State.enqueueNew s n i) := by simp [State.enqueueNew, h]

@[simp] theorem lawful_enqueueBack (h : s.Lawful) (n : Circ) (i : Item) :
    State.Lawful (State.enqueueBack s n i) := by simp [State.enqueueBack, h]

@[simp] theorem lawful_dequeue (h : s.Lawful) (n : Circ) (i : Item) :
    State.Lawful (State.dequeue s n i) := by simp [State.dequeue, h]

@[simp] theorem lawful_noticeHere (h : s.Lawful) (n : Circ) (k : NoticeKind) (x : NoticeSource) :
    State.Lawful (State.noticeHere s n k x) := by
  unfold State.noticeHere
  split <;> simp [h]

/-! ### Sending -/

@[simp] theorem lawful_fetchTry (h : s.Lawful) (n : Circ) :
    State.Lawful (State.fetchTry s n) := by
  unfold State.fetchTry
  split <;> simp [h]

@[simp] theorem lawful_beginSvc (h : s.Lawful) (n : Circ) :
    State.Lawful (State.beginSvc s n) := by simp [State.beginSvc, h]

@[simp] theorem lawful_leaveService (h : s.Lawful) (n : Circ) :
    State.Lawful (State.leaveService s n) := by
  simp only [State.leaveService]
  simp (disch := simp (disch := simp (disch := simp [h]) [h]) [h]) [*]

@[simp] theorem lawful_stopNotice (h : s.Lawful) (n : Circ) (t : Tag) (st : Story) (stop : StopOrder) :
    State.Lawful (State.stopNotice s n t st stop) := by
  simp only [State.stopNotice]
  (repeat' split) <;> simp [h]

@[simp] theorem lawful_dropPend (h : s.Lawful) (n : Circ) :
    State.Lawful (State.dropPend s n) := by
  simp only [State.dropPend]
  simp (disch := simp (disch := simp (disch := simp [h]) [h]) [h]) [*]

@[simp] theorem lawful_deliveryDone (h : s.Lawful) (n : Circ) :
    State.Lawful (State.deliveryDone s n) := by
  simp only [State.deliveryDone]
  (repeat' split) <;> simp (disch := simp (disch := simp (disch := simp [h]) [h]) [h]) [*]

@[simp] theorem lawful_endStop (h : s.Lawful) (n : Circ) :
    State.Lawful (State.endStop s n) := by
  simp only [State.endStop]
  (repeat' split) <;> simp (disch := simp [h]) [h]

@[simp] theorem lawful_silentStop (h : s.Lawful) (n : Circ) :
    State.Lawful (State.silentStop s n) := by
  simp only [State.silentStop]
  (repeat' split) <;> simp (disch := simp (disch := simp (disch := simp [h]) [h]) [h]) [*]

@[simp] theorem lawful_stopLineOrEnd (h : s.Lawful) (n : Circ) :
    State.Lawful (State.stopLineOrEnd s n) := by
  simp only [State.stopLineOrEnd]
  (repeat' split) <;> simp [h]

@[simp] theorem lawful_stopHere (h : s.Lawful) (n : Circ) :
    State.Lawful (State.stopHere s n) := by
  simp only [State.stopHere]
  (repeat' split) <;> simp (disch := simp (disch := simp (disch := simp (disch := simp (disch := simp [h]) [h]) [h]) [h]) [h]) [*]

@[simp] theorem lawful_preemptDone (h : s.Lawful) (n : Circ) :
    State.Lawful (State.preemptDone s n) := by
  simp only [State.preemptDone]
  (repeat' split) <;> simp (disch := simp (disch := simp (disch := simp (disch := simp (disch := simp [h]) [h]) [h]) [h]) [h]) [*]

@[simp] theorem lawful_beginLeave (h : s.Lawful) (n : Circ) (k : Leave) :
    State.Lawful (State.beginLeave s n k) := by
  simp only [State.beginLeave]
  (repeat' split) <;> simp [h]

@[simp] theorem lawful_enterService (h : s.Lawful) (n : Circ) (i : Item) (rest : List Item) :
    State.Lawful (State.enterService s n i rest) := by
  simp only [State.enterService]
  (repeat' split) <;> simp (disch := simp (disch := simp (disch := simp [h]) [h]) [h]) [*]

@[simp] theorem lawful_select (h : s.Lawful) (n : Circ) :
    State.Lawful (State.select s n) := by
  simp only [State.select]
  (repeat' split) <;> simp [h]

@[simp] theorem lawful_setPoint (h : s.Lawful) (n : Circ) :
    State.Lawful (State.setPoint s n) := by simp [State.setPoint, h]

@[simp] theorem lawful_actAtOnce (h : s.Lawful) (n : Circ) :
    State.Lawful (State.actAtOnce s n) := by
  simp only [State.actAtOnce]
  (repeat' split) <;> simp [h]

@[simp] theorem lawful_setIdle (h : s.Lawful) (n : Circ) :
    State.Lawful (State.setIdle s n) := by simp [State.setIdle, h]

@[simp] theorem lawful_settleLine (h : s.Lawful) (n : Circ) :
    State.Lawful (State.settleLine s n) := by
  exact lawful_fetchTry (lawful_setIdle (lawful_setPoint (lawful_select (lawful_actAtOnce (lawful_setPoint h _)
    _) _) _) _) _

@[simp] theorem lawful_replayCheck (h : s.Lawful) (n : Circ) :
    State.Lawful (State.replayCheck s n) := by
  unfold State.replayCheck
  split <;> simp [h]

@[simp] theorem lawful_wordTest (h : s.Lawful) (n : Circ) :
    State.Lawful (State.wordTest s n) := by
  simp only [State.wordTest]
  (repeat' split) <;> simp [h]

@[simp] theorem lawful_lineTest (h : s.Lawful) (n : Circ) (k : NlCause) :
    State.Lawful (State.lineTest s n k) := by
  simp only [State.lineTest]
  (repeat' split) <;> simp [h]

@[simp] theorem lawful_dropCapture (h : s.Lawful) (n : Circ) (k : NlCause) :
    State.Lawful (State.dropCapture s n k) := by
  simp only [State.dropCapture]
  (repeat' split) <;> simp [h]

@[simp] theorem lawful_setPhase (h : s.Lawful) (n : Circ) (p : Phase) :
    State.Lawful (State.setPhase s n p) := by simp [State.setPhase, h]

@[simp] theorem lawful_enterText (h : s.Lawful) (n : Circ) :
    State.Lawful (State.enterText s n) := by simp [State.enterText, h]

@[simp] theorem lawful_lostDone (h : s.Lawful) (n : Circ) :
    State.Lawful (State.lostDone s n) := by simp [State.lostDone, h]

@[simp] theorem lawful_noticeSent (h : s.Lawful) (n : Circ) :
    State.Lawful (State.noticeSent s n) := by
  unfold State.noticeSent
  split <;> simp [h]

@[simp] theorem lawful_headDone (h : s.Lawful) (n : Circ) :
    State.Lawful (State.headDone s n) := by
  unfold State.headDone
  split <;> simp [h]

@[simp] theorem lawful_svcDone (h : s.Lawful) (n : Circ) :
    State.Lawful (State.svcDone s n) := by
  unfold State.svcDone
  split <;> simp [h]

@[simp] theorem lawful_openLine (h : s.Lawful) (n : Circ) :
    State.Lawful (State.openLine s n) := by
  unfold State.openLine
  split <;> simp [h]

@[simp] theorem lawful_nlNext (h : s.Lawful) (n : Circ) (k : NlCause) :
    State.Lawful (State.nlNext s n k) := by
  simp only [State.nlNext]
  (repeat' split) <;> simp [h]

@[simp] theorem lawful_lostTest (h : s.Lawful) (n : Circ) :
    State.Lawful (State.lostTest s n) := by
  simp only [State.lostTest]
  (repeat' split) <;> simp (disch := simp (disch := simp (disch := simp [h]) [h]) [h]) [*]

@[simp] theorem lawful_wordDone (h : s.Lawful) (n : Circ) :
    State.Lawful (State.wordDone s n) := by
  simp only [State.wordDone]
  (repeat' split) <;> simp (disch := simp (disch := simp (disch := simp (disch := simp (disch := simp [h]) [h]) [h]) [h]) [h]) [*]

@[simp] theorem lawful_complete (h : s.Lawful) (n : Circ) (m : Mark) :
    State.Lawful (State.complete s n m) := by
  simp only [State.complete]
  (repeat' split) <;> simp (disch := simp (disch := simp (disch := simp [h]) [h]) [h]) [*]

@[simp] theorem lawful_joinSent (h : s.Lawful) (n : Circ) (c : SentChar) :
    State.Lawful (State.joinSent s n c) := by
  simp only [State.joinSent]
  (repeat' split) <;> simp [h]

@[simp] theorem lawful_recordChar (h : s.Lawful) (n : Circ) (c : SentChar) :
    State.Lawful (State.recordChar s n c) := by
  simp only [State.recordChar]
  (repeat' split) <;> simp (disch := simp (disch := simp (disch := simp (disch := simp (disch := simp [h]) [h]) [h]) [h]) [h]) [*]

@[simp] theorem lawful_afterRead (h : s.Lawful) (n : Circ) (size : Nat) (d : Sender) :
    State.Lawful (State.afterRead s n size d) := by
  simp only [State.afterRead]
  simp (disch := simp (disch := simp (disch := simp (disch := simp (disch := simp [h]) [h]) [h]) [h]) [h]) [*]

@[simp] theorem lawful_beginLost (h : s.Lawful) (n : Circ) (size : Nat) (u : LUnit) :
    State.Lawful (State.beginLost s n size u) := by
  simp only [State.beginLost]
  (repeat' split) <;> simp (disch := simp (disch := simp (disch := simp (disch := simp (disch := simp [h]) [h]) [h]) [h]) [h]) [*]

@[simp] theorem lawful_storyEnd (h : s.Lawful) (n : Circ) (st : Story) :
    State.Lawful (State.storyEnd s n st) := by
  unfold State.storyEnd
  split <;> simp [h]

@[simp] theorem lawful_askTurn (h : s.Lawful) (n : Circ) :
    State.Lawful (State.askTurn s n).1 := by
  simp only [State.askTurn]
  (repeat' split) <;> simp (disch := simp [h]) [h]

@[simp] theorem lawful_ask (h : s.Lawful) (k : Nat) (n : Circ) : (State.ask k s n).Lawful := by
  induction k generalizing s with
  | zero => exact h
  | succ k ih =>
    simp only [State.ask]
    split
    · split
      · exact ih (lawful_settleLine (lawful_askTurn h n) n)
      · exact lawful_askTurn h n
    · exact h

@[simp] theorem lawful_holdNewline (h : s.Lawful) (n : Circ) :
    State.Lawful (State.holdNewline s n) := by
  simp only [State.holdNewline]
  (repeat' split) <;> simp [h]

@[simp] theorem lawful_beginSlot (h : s.Lawful) (n : Circ) :
    State.Lawful (State.beginSlot s n) := by
  have h1 := lawful_holdNewline (lawful_ask h 256 n) n
  have h2 := lawful_fetchTry h1 n
  simp only [State.beginSlot]
  split
  · refine lawful_fetchTry ?_ _
    split
    · exact lawful_updLu (lawful_updSnd h1 _ _) _ _
    · split
      · exact lawful_updDelivery (lawful_updLu (lawful_updSnd h1 _ _) _ _) _ _ _
      · exact lawful_updLu (lawful_updSnd h1 _ _) _ _
  · split
    · exact lawful_updLu (lawful_updSnd h2 _ _) _ _
    · exact lawful_updLu h2 _ _

/-! ### LineUnit -/

@[simp] theorem lawful_dropItem (h : s.Lawful) (n : Circ) (i : Item) :
    State.Lawful (State.dropItem n s i) := by
  unfold State.dropItem
  split <;> simp [h]

@[simp] theorem lawful_emptyQueue (h : s.Lawful) (n : Circ) :
    State.Lawful (State.emptyQueue s n) := by
  exact lawful_foldl h _ (fun _ _ h => lawful_dropItem h _ _) _

@[simp] theorem lawful_stopCore (h : s.Lawful) (n : Circ) :
    State.Lawful (State.stopCore s n) := by simp [State.stopCore, h]

@[simp] theorem lawful_dropService (h : s.Lawful) (n : Circ) :
    State.Lawful (State.dropService s n) := by
  simp only [State.dropService]
  (repeat' split) <;> simp (disch := simp [h]) [h]

@[simp] theorem lawful_circOff (h : s.Lawful) (n : Circ) :
    State.Lawful (State.circOff s n) := by
  simp only [State.circOff]
  simp (disch := simp (disch := simp (disch := simp [h]) [h]) [h]) [*]

@[simp] theorem lawful_circOn (h : s.Lawful) (n : Circ) :
    State.Lawful (State.circOn s n) := by
  simp only [State.circOn]
  simp (disch := simp (disch := simp (disch := simp [h]) [h]) [h]) [*]

@[simp] theorem lawful_circChange (h : s.Lawful) (n : Circ) (old new : CircCfg) :
    State.Lawful (State.circChange s n old new) := by
  simp only [State.circChange]
  (repeat' split) <;> simp (disch := simp (disch := simp (disch := simp [h]) [h]) [h]) [*]

@[simp] theorem lawful_setCircCfg (h : s.Lawful) (n : Circ) (new : CircCfg) :
    State.Lawful (State.setCircCfg s n new) := by
  have h1 := fun c => lawful_mk_applied h { s.applied with circs := c } rfl (fun _ => rfl)
  simp only [State.setCircCfg]
  split
  · split
    · exact lawful_circChange (h1 _) _ _ _
    · exact lawful_circOff (h1 _) _
  · split
    · exact lawful_circOn (h1 _) _
    · exact h1 _

@[simp] theorem lawful_examineCirc (h : s.Lawful) (n : Circ) :
    State.Lawful (State.examineCirc s n) := by
  simp only [State.examineCirc]
  (repeat' split) <;> simp (disch := simp (disch := simp (disch := simp [h]) [h]) [h]) [*]

@[simp] theorem lawful_circBoundary (h : s.Lawful) (n : Circ) :
    State.Lawful (State.circBoundary s n) := by
  unfold State.circBoundary
  split <;> simp [h]

@[simp] theorem lawful_heldCore (h : s.Lawful) (n : Circ) :
    State.Lawful (State.heldCore s n) := by
  simp only [State.heldCore]
  simp (disch := simp (disch := simp (disch := simp [h]) [h]) [h]) [*]

@[simp] theorem lawful_enterRunning (h : s.Lawful) (n : Circ) :
    State.Lawful (State.enterRunning s n) := by
  simp only [State.enterRunning]
  simp (disch := simp (disch := simp (disch := simp [h]) [h]) [h]) [*]

@[simp] theorem lawful_brokenCore (h : s.Lawful) (n : Circ) :
    State.Lawful (State.brokenCore s n) := 
  lawful_fetchTry (lawful_setPoint (lawful_post (lawful_updLu h _ _) _) _) _

@[simp] theorem lawful_leadSlots (h : s.Lawful) (n : Circ) (ends : State → Circ → State)
    (he : ∀ s n, s.Lawful → (ends s n).Lawful) : State.Lawful (State.leadSlots s n ends) := by
  simp only [State.leadSlots]
  split <;> simp [h, he]

@[simp] theorem lawful_leadOver (h : s.Lawful) (n : Circ) :
    State.Lawful (State.leadOver s n) := by
  simp only [State.leadOver]
  simp (disch := simp (disch := simp (disch := simp [h]) [h]) [h]) [*]

@[simp] theorem lawful_leadAgain (h : s.Lawful) (n : Circ) : State.Lawful (State.leadSlots s n State.leadOver) :=
  lawful_leadSlots h n _ fun _ n h => lawful_leadOver h n

@[simp] theorem lawful_restartLine (h : s.Lawful) (n : Circ) (cap : Capture) :
    State.Lawful (State.restartLine s n cap) := by
  simp only [State.restartLine]
  (repeat' split) <;> simp (disch := simp (disch := simp (disch := simp [h]) [h]) [h]) [*]

@[simp] theorem lawful_takeUp (h : s.Lawful) (n : Circ) :
    State.Lawful (State.takeUp s n) := by
  simp only [State.takeUp]
  (repeat' split) <;> simp [h]

@[simp] theorem lawful_clearBreak (h : s.Lawful) (n : Circ) :
    State.Lawful (State.clearBreak s n) := by
  simp only [State.clearBreak]
  (repeat' split) <;> simp (disch := simp (disch := simp (disch := simp [h]) [h]) [h]) [*]

@[simp] theorem lawful_enterBroken (h : s.Lawful) (n : Circ) :
    State.Lawful (State.enterBroken s n) := by
  simp only [State.enterBroken]
  (repeat' split) <;> simp [h]

@[simp] theorem lawful_faultItem (h : s.Lawful) (n : Circ) :
    State.Lawful (State.faultItem s n) := by
  simp only [State.faultItem]
  (repeat' split) <;> simp (disch := simp [h]) [h]

@[simp] theorem lawful_faultCore (h : s.Lawful) (n : Circ) :
    State.Lawful (State.faultCore s n) :=
  lawful_settleLine (lawful_circBoundary (lawful_post (lawful_setPoint
    (lawful_updSnd (lawful_faultItem (lawful_updLu h _ _) _) _ _) _) _) _) _

@[simp] theorem lawful_spaceLimits (h : s.Lawful) (n : Circ) :
    State.Lawful (State.spaceLimits s n) := by
  simp only [State.spaceLimits]
  (repeat' split) <;> simp (disch := simp (disch := simp (disch := simp [h]) [h]) [h]) [*]

@[simp] theorem lawful_afterPart {t : State} (h : t.Lawful) (n : Circ) : State.Lawful (State.afterPart s n t) := by
  unfold State.afterPart
  split <;> simp [h]

@[simp] theorem lawful_enterHeld (h : s.Lawful) (n : Circ) :
    State.Lawful (State.enterHeld s n) := by
  simp only [State.enterHeld]
  simp (disch := simp (disch := simp (disch := simp [h]) [h]) [h]) [*]

@[simp] theorem lawful_leadEnd (h : s.Lawful) (n : Circ) :
    State.Lawful (State.leadEnd s n) := by
  simp only [State.leadEnd]
  (repeat' split) <;> simp (disch := simp (disch := simp (disch := simp [h]) [h]) [h]) [*]

@[simp] theorem lawful_leadStart (h : s.Lawful) (n : Circ) :
    State.Lawful (State.leadStart s n) :=
  lawful_leadSlots (lawful_updSnd (lawful_updLu h _ _) _ _) n _ fun _ n h => lawful_leadEnd h n

@[simp] theorem lawful_sched (h : s.Lawful) (n : Circ) :
    State.Lawful (State.sched s n) := by
  unfold State.sched
  split <;> simp [h]

@[simp] theorem lawful_schedAll (h : s.Lawful)  :
    State.Lawful (State.schedAll s) := by
  exact lawful_foldl h _ (fun _ _ h => lawful_sched h _) _

@[simp] theorem lawful_enterStopped (h : s.Lawful) (n : Circ) :
    State.Lawful (State.enterStopped s n) := by
  simp only [State.enterStopped]
  simp (disch := simp (disch := simp (disch := simp [h]) [h]) [h]) [*]

@[simp] theorem lawful_restore (h : s.Lawful) (n : Circ) :
    State.Lawful (State.restore s n) :=
  lawful_sched (lawful_afterPart (lawful_circBoundary
    (lawful_post (lawful_updSnd (lawful_updLu h _ _) _ _) _) _) _) _

@[simp] theorem lawful_enterFault (h : s.Lawful) (n : Circ) :
    State.Lawful (State.enterFault s n) := by
  simp only [State.enterFault]
  (repeat' split) <;> simp (disch := simp (disch := simp (disch := simp [h]) [h]) [h]) [*]

@[simp] theorem lawful_partTaken {t : State} (h : t.Lawful) (n : Circ) : State.Lawful (State.partTaken s n t) := by
  unfold State.partTaken
  (repeat' split) <;> simp [h]

@[simp] theorem lawful_leadSlotDone (h : s.Lawful) (n : Circ) :
    State.Lawful (State.leadSlotDone s n) := by
  simp only [State.leadSlotDone]
  (repeat' split) <;> simp [h]

@[simp] theorem lawful_recordSlot (h : s.Lawful) (n : Circ) (k : SlotKind) :
    State.Lawful (State.recordSlot s n k) := by
  unfold State.recordSlot
  split <;> simp [h]

@[simp] theorem lawful_starveTell (h : s.Lawful) (n : Circ) :
    State.Lawful (State.starveTell s n) := by
  unfold State.starveTell
  split <;> simp [h]

@[simp] theorem lawful_nextSlotOrHold (h : s.Lawful) (n : Circ) :
    State.Lawful (State.nextSlotOrHold s n) := by
  simp only [State.nextSlotOrHold]
  (repeat' split) <;> simp (disch := simp (disch := simp (disch := simp [h]) [h]) [h]) [h]

@[simp] theorem lawful_runSlotDone (h : s.Lawful) (n : Circ) (k : SlotKind) :
    State.Lawful (State.runSlotDone s n k) := by
  simp only [State.runSlotDone]
  (repeat' split) <;> simp (disch := simp (disch := simp (disch := simp [h]) [h]) [h]) [*]

@[simp] theorem lawful_slotDone (h : s.Lawful) (n : Circ) :
    State.Lawful (State.slotDone s n) := by
  simp only [State.slotDone]
  (repeat' split) <;> simp [h]

/-! ### Kill -/

@[simp] theorem lawful_queueNotice (h : s.Lawful) (i : Slot32) (n : Circ) :
    State.Lawful (State.queueNotice i s n) := by simp [State.queueNotice, h]

@[simp] theorem lawful_makeNotices (h : s.Lawful) (k : NoticeKind) (x : NoticeSource) (targets : List Circ) :
    State.Lawful (State.makeNotices s k x targets).1 := by
  unfold State.makeNotices
  split
  · exact h
  · split
    · exact lawful_post h _
    · exact lawful_foldl (lawful_setNotice h _ _) _ (fun _ _ h => lawful_queueNotice h _ _) _

@[simp] theorem lawful_settleDelivery (h : s.Lawful) (t : Tag) (k : NoticeKind) (n : Circ) :
    State.Lawful (State.settleDelivery t k s n) := by
  simp only [State.settleDelivery]
  (repeat' split) <;> simp [h]

@[simp] theorem lawful_stopWaited (h : s.Lawful) (t : Tag) (n : Circ) :
    State.Lawful (State.stopWaited t s n) := by
  unfold State.stopWaited
  (repeat' split) <;> simp [h]

@[simp] theorem lawful_cutUnlink (h : s.Lawful) (t : Tag) (st : Story) :
    State.Lawful (State.cutUnlink s t st) := by simp [State.cutUnlink, h]

@[simp] theorem lawful_killMark (h : s.Lawful) (src : KillSource) (t : Tag) (st : Story) :
    State.Lawful (State.killMark s src t st) := by
  simp only [State.killMark]
  (repeat' split) <;> simp [h]

@[simp] theorem lawful_killDeliveries (h : s.Lawful) (src : KillSource) (t : Tag) :
    State.Lawful (State.killDeliveries s src t) :=
  lawful_foldl h _ (fun _ _ h => lawful_settleDelivery h _ _ _) _

@[simp] theorem lawful_killFresh (h : s.Lawful) (src : KillSource) (t : Tag) (st : Story) :
    State.Lawful (State.killFresh s src t st) := by
  unfold State.killFresh
  refine lawful_retireTest (lawful_schedAll (lawful_foldl ?_ _ (fun _ _ h => lawful_stopWaited h _ _) _)) _
  exact lawful_post (lawful_makeNotices (lawful_killDeliveries (lawful_killMark h _ _ _) _ _) _ _ _) _

@[simp] theorem lawful_cutKilled (h : s.Lawful) (t : Tag) (st : Story) :
    State.Lawful (State.cutKilled s t st) := by
  unfold State.cutKilled
  dsimp only
  refine lawful_retireTest (lawful_post ?_ _) _
  refine lawful_foldl (lawful_cutUnlink (lawful_setStory h _ _) _ _) _ (fun _ _ h => ?_) _
  split
  · exact lawful_updFtc h _ _
  · exact h

@[simp] theorem lawful_killLive (h : s.Lawful) (src : KillSource) (t : Tag) :
    State.Lawful (State.killLive s src t) := by
  simp only [State.killLive]
  (repeat' split) <;> simp [h]

@[simp] theorem lawful_killHistory (h : s.Lawful) (src : KillSource) (i : Nat) (he : HistEntry) :
    State.Lawful (State.killHistory s src i he) := by
  simp only [State.killHistory]
  simp (disch := simp (disch := simp (disch := simp [h]) [h]) [h]) [*]

@[simp] theorem lawful_killNumber (h : s.Lawful) (src : KillSource) (f : Feed) (n : BitVec 16) :
    State.Lawful (State.killNumber s src f n).1 := by
  simp only [State.killNumber]
  (repeat' split) <;> simp [h]

@[simp] theorem lawful_reclassOn (h : s.Lawful) (t : Tag) (n : Circ) :
    State.Lawful (State.reclassOn t s n) := by
  simp only [State.reclassOn]
  (repeat' split) <;> simp (disch := simp [h]) [h]

@[simp] theorem lawful_reclass (h : s.Lawful) (t : Tag) (c : StoryClass) :
    State.Lawful (State.reclass s t c) := by
  simp only [State.reclass]
  split
  · exact h
  · have h1 := fun st : Story => lawful_setStory h t (some { st with cls := c })
    split
    · exact h
    · split
      · exact lawful_foldl (h1 _) _ (fun _ _ h => lawful_reclassOn h _ _) _
      · exact lawful_foldl (h1 _) _ (fun _ _ h => lawful_reclassOn h _ _) _
      · exact h1 _
      · exact h1 _

@[simp] theorem lawful_feedBlocked (h : s.Lawful) (f : Feed) (t : Tag) (st : Story) :
    State.Lawful (State.feedBlocked s f t st) := by
  unfold State.feedBlocked
  split <;> simp [h]

/-! ### Intake -/

@[simp] theorem lawful_spikeTest (h : s.Lawful) (k : Nat) (f : Feed) :
    (State.spikeTest k s f).Lawful := by
  induction k generalizing s with
  | zero => exact h
  | succ k ih =>
    simp only [State.spikeTest]
    (repeat' split) <;> simp [h, ih]

@[simp] theorem lawful_clearDry (h : s.Lawful) (t : Tag) :
    State.Lawful (State.clearDry s t) := by
  unfold State.clearDry
  split
  · exact h
  · split
    · exact h
    · exact lawful_foldl (lawful_setStory h _ _) _ (fun _ _ h => lawful_sched h _) _

@[simp] theorem lawful_settleServing (h : s.Lawful) (t : Tag) :
    State.Lawful (State.settleServing s t) := by
  exact lawful_foldl h _ (fun _ _ h => lawful_settleLine h _) _

@[simp] theorem lawful_growth (h : s.Lawful) (t : Tag) (e : Nat) :
    State.Lawful (State.growth s t e) := by
  simp only [State.growth]
  simp (disch := simp (disch := simp (disch := simp [h]) [h]) [h]) [*]

@[simp] theorem lawful_takeEvent (h : s.Lawful) (t : Tag) :
    State.Lawful (State.takeEvent s t) := by simp [State.takeEvent, h]

@[simp] theorem lawful_endStarving (h : s.Lawful) (t : Tag) :
    State.Lawful (State.endStarving s t) := by
  exact lawful_foldl h _ (fun _ _ h => lawful_updSch h _ _) _

@[simp] theorem lawful_closeEvent (h : s.Lawful) (t : Tag) (e : Nat) (unclosed : Bool) :
    State.Lawful (State.closeEvent s t e unclosed) := by
  simp only [State.closeEvent]
  (repeat' split) <;> simp (disch := simp (disch := simp (disch := simp [h]) [h]) [h]) [*]

@[simp] theorem lawful_passEvent (h : s.Lawful) (t : Tag) (unclosed : Bool) :
    State.Lawful (State.passEvent s t unclosed) := by simp [State.passEvent, h]

@[simp] theorem lawful_chooseEntry (h : s.Lawful)  :
    State.Lawful (State.chooseEntry s).1 := by
  simp only [State.chooseEntry]
  (repeat' split) <;> simp [h]

@[simp] theorem lawful_createDelivery (h : s.Lawful) (t : Tag) (textStart : Nat) (n : Circ) :
    State.Lawful (State.createDelivery t textStart s n) := by
  simp only [State.createDelivery]
  simp (disch := simp (disch := simp (disch := simp [h]) [h]) [h]) [*]

@[simp] theorem lawful_supersede (h : s.Lawful) (a : Admission) (t : Tag) :
    State.Lawful (State.supersede s a t) := by
  simp only [State.supersede]
  (repeat' split) <;> simp [h]

@[simp] theorem lawful_indexStory (h : s.Lawful) (a : Admission) (t : Tag) :
    State.Lawful (State.indexStory s a t) := by
  simp only [State.indexStory]
  (repeat' split) <;> simp [h]

@[simp] theorem lawful_fillEntry (h : s.Lawful) (a : Admission) (t : Tag) :
    State.Lawful (State.fillEntry s a t) := by
  exact lawful_indexStory (lawful_supersede (lawful_post (lawful_foldl (lawful_recompute (lawful_setFlist
    (lawful_mk_admission (lawful_setStory h _ _) _) _ _) _) _ (fun _ _ h => lawful_createDelivery h _ _ _) _) _)
    _ _) _ _

@[simp] theorem lawful_admitStory (h : s.Lawful) (a : Admission) :
    State.Lawful (State.admitStory s a).1 := by
  simp only [State.admitStory]
  (repeat' split) <;> simp [h]

@[simp] theorem lawful_advance (h : s.Lawful) (f : Feed) :
    State.Lawful (State.advance s f) := by simp [State.advance, h]

@[simp] theorem lawful_setParse (h : s.Lawful) (f : Feed) (p : Parse) :
    State.Lawful (State.setParse s f p) := by simp [State.setParse, h]

@[simp] theorem lawful_beginHeader (h : s.Lawful) (f : Feed) :
    State.Lawful (State.beginHeader s f) := by simp [State.beginHeader, h]

@[simp] theorem lawful_closeToBetween (h : s.Lawful) (f : Feed) :
    State.Lawful (State.closeToBetween s f) := by
  simp only [State.closeToBetween]
  simp (disch := simp (disch := simp (disch := simp [h]) [h]) [h]) [*]

@[simp] theorem lawful_looseByte (h : s.Lawful) (f : Feed) :
    State.Lawful (State.looseByte s f) := by
  simp only [State.looseByte]
  (repeat' split) <;> simp [h]

@[simp] theorem lawful_parseBetween (h : s.Lawful) (f : Feed) (b : Byte) :
    State.Lawful (State.parseBetween s f b) := by
  simp only [State.parseBetween]
  (repeat' split) <;> simp [h]

@[simp] theorem lawful_endHeader (h : s.Lawful) (f : Feed) (openOff : Nat) (stored : List Byte) (full : Bool) :
    State.Lawful (State.endHeader s f openOff stored full) := by
  simp only [State.endHeader]
  (repeat' split) <;> simp (disch := simp (disch := simp (disch := simp [h]) [h]) [h]) [*]

@[simp] theorem lawful_parseHeaderByte (h : s.Lawful) (f : Feed) (openOff count : Nat) (stored : List Byte) (b : Byte) :
    State.Lawful (State.parseHeaderByte s f openOff count stored b) := by
  simp only [State.parseHeaderByte]
  (repeat' split) <;> simp [h]

@[simp] theorem lawful_parseText (h : s.Lawful) (f : Feed) (t : Tag) (b : Byte) :
    State.Lawful (State.parseText s f t b) := by
  simp only [State.parseText]
  (repeat' split) <;> simp [h]

@[simp] theorem lawful_passAttached (h : s.Lawful) (tag : Option Tag) (unclosed : Bool) :
    State.Lawful (State.passAttached s tag unclosed) := by
  unfold State.passAttached
  split <;> simp [h]

@[simp] theorem lawful_parseDiscard (h : s.Lawful) (f : Feed) (tag : Option Tag) (b : Byte) :
    State.Lawful (State.parseDiscard s f tag b) := by
  simp only [State.parseDiscard]
  (repeat' split) <;> simp [h]

@[simp] theorem lawful_directive (h : s.Lawful) (f : Feed) (k v : Nat) :
    State.Lawful (State.directive s f k v) := by
  simp only [State.directive]
  (repeat' split) <;> simp [h]

@[simp] theorem lawful_returnBetween (h : s.Lawful) (f : Feed) (b : Byte) :
    State.Lawful (State.returnBetween s f b) := by
  simp only [State.returnBetween]
  (repeat' split) <;> simp (disch := simp (disch := simp (disch := simp [h]) [h]) [h]) [*]

@[simp] theorem lawful_returnParse (h : s.Lawful) (f : Feed) (b : Byte) :
    State.Lawful (State.returnParse s f b) := by
  unfold State.returnParse
  split <;> simp [h]

@[simp] theorem lawful_parseKillnum (h : s.Lawful) (f : Feed) (ret : Ret) (k v : Nat) (b : Byte) :
    State.Lawful (State.parseKillnum s f ret k v b) := by
  unfold State.parseKillnum
  split <;> simp [h]

@[simp] theorem lawful_parseByte (h : s.Lawful) (f : Feed) (b : Byte) :
    State.Lawful (State.parseByte s f b) := by
  unfold State.parseByte
  split <;> simp [h]

@[simp] theorem lawful_parseBytes (h : s.Lawful) (f : Feed) (l : List Byte) :
    (State.parseBytes f l s).Lawful := by
  induction l generalizing s with
  | nil => exact h
  | cons b bs ih =>
    simp only [State.parseBytes]
    (repeat' split) <;> simp [h, ih]

@[simp] theorem lawful_intakeCut (h : s.Lawful) (f : Feed) (t : Tag) :
    State.Lawful (State.intakeCut s f t) := by
  unfold State.intakeCut
  split <;> simp [h]

@[simp] theorem lawful_cutLoop (h : s.Lawful) (f : Feed) (n k : Nat) : (State.cutLoop f n k s).Lawful := by
  induction k generalizing s with
  | zero => exact h
  | succ k ih =>
    simp only [State.cutLoop]
    split
    · split
      · exact h
      · exact ih (lawful_intakeCut (lawful_killLive h _ _) _ _)
    · exact h

@[simp] theorem lawful_overrunTest (h : s.Lawful) (f : Feed) (n : Nat) :
    State.Lawful (State.overrunTest s f n) := by
  simp only [State.overrunTest]
  (repeat' split) <;> simp [h]

@[simp] theorem lawful_strayWrite (h : s.Lawful) (f : Feed) (addr : Nat) :
    State.Lawful (State.strayWrite s f addr) := by
  simp only [State.strayWrite]
  (repeat' split) <;> simp [h]

@[simp] theorem lawful_growthStep (h : s.Lawful) (f : Feed) :
    State.Lawful (State.growthStep s f) := by
  simp only [State.growthStep]
  (repeat' split) <;> simp [h]

@[simp] theorem lawful_accountStep (h : s.Lawful) (f : Feed) :
    State.Lawful (State.accountStep s f) := by
  simp (disch := simp (disch := simp [h]) [h]) [State.accountStep, h, apply_ite State.Lawful]

@[simp] theorem lawful_takeWrite (h : s.Lawful) (f : Feed) (bytes : List Byte) :
    State.Lawful (State.takeWrite s f bytes) := by
  simp only [State.takeWrite]
  simp (disch := simp (disch := simp (disch := simp [h]) [h]) [h]) [*]

@[simp] theorem lawful_feedWrite (h : s.Lawful) (f : Feed) (off : Nat) (be : BitVec 4) (d : Word32) :
    State.Lawful (State.feedWrite s f off be d) := by
  unfold State.feedWrite
  split <;> simp [h]

/-! ### Requests -/

@[simp] theorem lawful_holdReq (h : s.Lawful) (n : Circ) :
    State.Lawful (State.holdReq s n) := by
  unfold State.holdReq
  split <;> simp [h]

@[simp] theorem lawful_takeUpIfDue (h : s.Lawful) (n : Circ) :
    State.Lawful (State.takeUpIfDue s n) := by
  unfold State.takeUpIfDue
  split <;> simp [h]

@[simp] theorem lawful_releaseReq (h : s.Lawful) (n : Circ) :
    State.Lawful (State.releaseReq s n) := by
  simp only [State.releaseReq]
  (repeat' split) <;> simp [h]

@[simp] theorem lawful_clearReq (h : s.Lawful) (n : Circ) :
    State.Lawful (State.clearReq s n) := by
  simp only [State.clearReq]
  simp (disch := simp (disch := simp (disch := simp [h]) [h]) [h]) [*]

@[simp] theorem lawful_stopMotorReq (h : s.Lawful) (n : Circ) :
    State.Lawful (State.stopMotorReq s n) := by
  unfold State.stopMotorReq
  split <;> simp [h]

@[simp] theorem lawful_killTagReq (h : s.Lawful)  :
    State.Lawful (State.killTagReq s) := by
  unfold State.killTagReq
  split <;> simp [h]

@[simp] theorem lawful_reclassReq (h : s.Lawful)  :
    State.Lawful (State.reclassReq s) := by
  simp only [State.reclassReq]
  (repeat' split) <;> simp [h]

@[simp] theorem lawful_capture (h : s.Lawful)  :
    State.Lawful (State.capture s) := by simp [State.capture, h]

@[simp] theorem lawful_snapshotReq (h : s.Lawful)  :
    State.Lawful (State.snapshotReq s) := by
  unfold State.snapshotReq
  split <;> simp [h]

@[simp] theorem lawful_idleExpire (h : s.Lawful) (n : Circ) :
    State.Lawful (State.idleExpire s n) := by
  unfold State.idleExpire
  split <;> simp [h]

@[simp] theorem lawful_starveReached (h : s.Lawful) (n : Circ) :
    State.Lawful (State.starveReached s n) := by
  unfold State.starveReached
  split <;> simp [h]

@[simp] theorem lawful_breakReached (h : s.Lawful) (n : Circ) :
    State.Lawful (State.breakReached s n) := by
  simp only [State.breakReached]
  (repeat' split) <;> simp [h]

@[simp] theorem lawful_faultReached (h : s.Lawful) (n : Circ) :
    State.Lawful (State.faultReached s n) := by
  simp only [State.faultReached]
  (repeat' split) <;> simp [h]

@[simp] theorem lawful_forceMark (h : s.Lawful) (n : Circ) :
    State.Lawful (State.forceMark s n) := by simp [State.forceMark, h]

@[simp] theorem lawful_clearReached (h : s.Lawful) (n : Circ) :
    State.Lawful (State.clearReached s n) := by
  unfold State.clearReached
  split <;> simp [h]

@[simp] theorem lawful_restoreReached (h : s.Lawful) (n : Circ) :
    State.Lawful (State.restoreReached s n) := by
  unfold State.restoreReached
  split <;> simp [h]

@[simp] theorem lawful_senseLevel (h : s.Lawful) (n : Circ) (asserted : Bool) :
    State.Lawful (State.senseLevel s n asserted) := by
  unfold State.senseLevel
  split <;> simp [h]

end Sys2Proof.Machine
end

