-- ==== Sys2Proof/Laws/Page.lean ====
section
/-! SUPPORT. What the Control Mirror's operations leave alone, and that they keep the laws of the Report Writer. -/

namespace Sys2Proof.Machine

/-- The bus but for what stands at the port, whether the port is busy, story memory, staging, the free counter and
the queue of commands. -/
def State.rim (s : State) : Bus × Bool × Memory × Memory × Nat × List Instr :=
  ({ s.bus with port := none }, s.bus.port.isSome, s.mem, s.mirror.staging, s.freeCount, s.pending)

theorem rim_of_outer {s t : State} (h : t.outer = s.outer) : t.rim = s.rim := by
  simp only [State.outer, Prod.mk.injEq] at h
  simp only [State.rim, h]

variable (s : State)

theorem foldl_outer {α : Type} (f : State → α → State) (h : ∀ s a, (f s a).outer = s.outer) (l : List α) :
    (l.foldl f s).outer = s.outer := outer_foldl s f h l

/-! ### The start of an apply -/

@[simp] theorem outer_markParts : s.markParts.outer = s.outer := outer_mk_mirror _ _ (by rfl)
@[simp] theorem outer_takeGeneral : s.takeGeneral.outer = s.outer := outer_mk_applied _ _
@[simp] theorem outer_takeRoute : s.takeRoute.outer = s.outer := outer_mk_applied _ _

@[simp] theorem outer_takeLevels (f : Feed) : (s.takeLevels f).outer = s.outer := by
  simp only [State.takeLevels]
  (repeat' split) <;> simp

@[simp] theorem outer_tryWin (f : Feed) : (s.tryWin f).outer = s.outer := by
  unfold State.tryWin
  split <;> simp

@[simp] theorem outer_tryRing : s.tryRing.outer = s.outer := by
  unfold State.tryRing
  split <;> simp

@[simp] theorem outer_tryCirc (n : Circ) : (s.tryCirc n).outer = s.outer := by
  unfold State.tryCirc
  split <;> simp

@[simp] theorem outer_tryParts : s.tryParts.outer = s.outer := by
  simp [State.tryParts]

@[simp] theorem outer_applyValid (gen : Byte) : (s.applyValid gen).outer = s.outer := by
  simp only [State.applyValid]
  split <;> simp

@[simp] theorem outer_applyRefused (gen : Byte) (entry : Nat) : (s.applyRefused gen entry).outer = s.outer := by
  simp [State.applyRefused]

@[simp] theorem outer_startApply : s.startApply.outer = s.outer := by
  simp only [State.startApply]
  split <;> simp

@[simp] theorem outer_examineGen : s.examineGen.outer = s.outer := by
  unfold State.examineGen
  split <;> simp

/-! ### Soft reset and requests -/

@[simp] theorem rim_emptied : s.emptied.rim = s.rim := by
  cases hp : s.bus.port <;> simp [State.emptied, State.rim, hp]

@[simp] theorem rim_softReset : s.softReset.rim = s.rim := by
  simp only [State.softReset]
  split
  · exact (rim_of_outer (by simp)).trans (rim_emptied s)
  · exact (rim_of_outer (by simp)).trans (rim_emptied s)

@[simp] theorem rim_resetRequest (v : Byte) : (s.resetRequest v).rim = s.rim := by
  unfold State.resetRequest
  split
  · rfl
  · split
    · simp
    · exact rim_of_outer (by simp)

@[simp] theorem outer_storyRequest (v : Byte) : (s.storyRequest v).outer = s.outer := by
  unfold State.storyRequest
  (repeat' split) <;> simp

@[simp] theorem outer_circAction (n : Circ) (v : Byte) : (s.circAction n v).outer = s.outer := by
  unfold State.circAction
  (repeat' split) <;> simp

@[simp] theorem outer_circRequest (n : Circ) (v : Byte) : (s.circRequest n v).outer = s.outer := by
  unfold State.circRequest
  split <;> simp

@[simp] theorem rim_takeRequest (o : Nat) : (s.takeRequest o).rim = s.rim := by
  simp only [State.takeRequest]
  split
  · simp
  · split
    · exact rim_of_outer (by simp)
    · split
      · exact rim_of_outer (by simp)
      · rfl

@[simp] theorem rim_takeRequests (off : Nat) (l : List Nat) : (State.takeRequests off l s).rim = s.rim := by
  induction l generalizing s with
  | nil => rfl
  | cons i is ih => simp [State.takeRequests, ih]

/-- A page write changes staging in its enabled bytes and nothing else on the rim (R17). -/
@[simp] theorem rim_pageWrite (off : Nat) (be : BitVec 4) (d : Word32) :
    (s.pageWrite off be d).rim = (s.stageWrite off be d).rim := by
  simp only [State.pageWrite]
  split
  · exact (rim_of_outer (outer_examineGen _)).trans (rim_takeRequests _ _ _)
  · exact rim_takeRequests _ _ _

@[simp] theorem outer_loadEnd (l : List Nat) : (s.loadEnd l).outer = s.outer := by
  simp [State.loadEnd]

@[simp] theorem outer_snapWord : s.snapWord.outer = s.outer := by
  simp only [State.snapWord]
  (repeat' split) <;> simp

/-! ### The laws of the Report Writer -/

variable {s}

@[simp] theorem lawful_markParts (h : s.Lawful) : s.markParts.Lawful := lawful_mk_mirror h _
@[simp] theorem lawful_takeGeneral (h : s.Lawful) : s.takeGeneral.Lawful :=
  lawful_mk_applied h { s.applied with
    attnEnable := stagedFlag s.mirror.staging 0x14
    attnMask := staged32 s.mirror.staging 0x18
    prefix_ := stagedPrefix s.mirror.staging } rfl (fun _ => rfl)
@[simp] theorem lawful_takeRoute (h : s.Lawful) : s.takeRoute.Lawful := by
  refine State.Lawful.congr h ?_ ?_ ?_ ?_ <;> simp [State.takeRoute, State.fcfg]

@[simp] theorem lawful_takeLevels (h : s.Lawful) (f : Feed) : (s.takeLevels f).Lawful := by
  have h1 := lawful_setFcfg h f ((s.fcfg f).withLevels (stagedLevels s.mirror.staging f)) rfl
  simp only [State.takeLevels]
  (repeat' split)
  · exact h
  · exact h1
  · exact lawful_warnTest (lawful_setAcct h1 _ _) _

@[simp] theorem lawful_tryWin (h : s.Lawful) (f : Feed) : (s.tryWin f).Lawful := by
  unfold State.tryWin
  split <;> simp [h]

@[simp] theorem lawful_tryRing (h : s.Lawful) : s.tryRing.Lawful := by
  unfold State.tryRing
  split <;> simp [h]

@[simp] theorem lawful_tryCirc (h : s.Lawful) (n : Circ) : (s.tryCirc n).Lawful := by
  unfold State.tryCirc
  split
  · exact lawful_sched (lawful_partTaken (lawful_examineCirc h _) _) _
  · exact h

@[simp] theorem lawful_tryParts (h : s.Lawful) : s.tryParts.Lawful :=
  lawful_foldl (lawful_tryRing (lawful_foldl h _ (fun _ _ h => lawful_tryWin h _) _)) _
    (fun _ _ h => lawful_tryCirc h _) _

@[simp] theorem lawful_applyValid (h : s.Lawful) (gen : Byte) : (s.applyValid gen).Lawful := by
  have h1 : State.Lawful (State.applyCheck (State.tryParts (allFeeds.foldl State.takeLevels
      (State.takeRoute (State.takeGeneral (State.markParts
        { s with mirror := { s.mirror with genValid := gen, applyPending := true } })))))) :=
    lawful_applyCheck (lawful_tryParts (lawful_foldl (lawful_takeRoute (lawful_takeGeneral (lawful_markParts
      (lawful_mk_mirror h _)))) _ (fun _ _ h => lawful_takeLevels h _) _))
  simp only [State.applyValid]
  split
  · exact lawful_listStatus h1 _ _
  · exact h1

@[simp] theorem lawful_applyRefused (h : s.Lawful) (gen : Byte) (entry : Nat) :
    (s.applyRefused gen entry).Lawful := lawful_post (lawful_listStatus h _ _) _

@[simp] theorem lawful_startApply (h : s.Lawful) : s.startApply.Lawful := by
  simp only [State.startApply]
  split
  · exact lawful_applyRefused (lawful_mk_mirror h _) _ _
  · exact lawful_applyValid (lawful_mk_mirror h _) _

@[simp] theorem lawful_examineGen (h : s.Lawful) : s.examineGen.Lawful := by
  unfold State.examineGen
  split <;> simp [h]

/-- A soft reset leaves an empty Report Writer, which is lawful whatever ring is applied, and keeps the window set
(R33, R167). -/
theorem lawful_emptied (h : s.Lawful) : s.emptied.Lawful := by
  refine ⟨⟨Nat.zero_le _, Nat.zero_le _, rfl, rfl, fun v _ => Nat.zero_le _, fun v _ => ?_, fun v _ => ?_⟩,
    h.placed.aligned, h.placed.apart, h.placed.page⟩
  · have := ringSlots_pos v.code
    simp only [State.emptied, Writer.start]; omega
  · simp [State.emptied, Writer.start]

@[simp] theorem lawful_softReset (h : s.Lawful) : s.softReset.Lawful := by
  have h1 := lawful_post (lawful_mk_mirror (lawful_emptied h)
    { s.emptied.mirror with resetWait := true }) (resetReport s.liveCount s.queuedCount)
  simp only [State.softReset]
  split
  · exact lawful_applyCheck (lawful_tryParts h1)
  · exact h1

@[simp] theorem lawful_resetRequest (h : s.Lawful) (v : Byte) : (s.resetRequest v).Lawful := by
  unfold State.resetRequest
  (repeat' split) <;> simp [h]

@[simp] theorem lawful_storyRequest (h : s.Lawful) (v : Byte) : (s.storyRequest v).Lawful := by
  unfold State.storyRequest
  (repeat' split) <;> simp [h]

@[simp] theorem lawful_circAction (h : s.Lawful) (n : Circ) (v : Byte) : (s.circAction n v).Lawful := by
  unfold State.circAction
  (repeat' split) <;> simp [h]

@[simp] theorem lawful_circRequest (h : s.Lawful) (n : Circ) (v : Byte) : (s.circRequest n v).Lawful := by
  unfold State.circRequest
  split
  · exact h
  · exact lawful_circAction (lawful_listZero h _) _ _

@[simp] theorem lawful_takeRequest (h : s.Lawful) (o : Nat) : (s.takeRequest o).Lawful := by
  simp only [State.takeRequest]
  (repeat' split) <;> simp [h]

@[simp] theorem lawful_takeRequests (h : s.Lawful) (off : Nat) (l : List Nat) :
    (State.takeRequests off l s).Lawful := by
  induction l generalizing s with
  | nil => exact h
  | cons i is ih => exact ih (lawful_takeRequest h _)

@[simp] theorem lawful_pageWrite (h : s.Lawful) (off : Nat) (be : BitVec 4) (d : Word32) :
    (s.pageWrite off be d).Lawful := by
  have h1 : (State.takeRequests off (lanesOf be) (s.stageWrite off be d)).Lawful :=
    lawful_takeRequests (lawful_mk_mirror h _) _ _
  simp only [State.pageWrite]
  split
  · exact lawful_examineGen h1
  · exact h1

@[simp] theorem lawful_loadEnd (h : s.Lawful) (l : List Nat) : (s.loadEnd l).Lawful :=
  lawful_startApply (lawful_foldl (lawful_mk_mirror h _) _ (fun _ _ h => lawful_listZero h _) _)

@[simp] theorem lawful_loadWord (h : s.Lawful) (d : Word32) : (s.loadWord d).Lawful := by
  simp only [State.loadWord]
  split
  · exact h
  · rename_i j _
    have h1 : (s.stageWrite j.next 0xF d).Lawful := lawful_mk_mirror h _
    split
    · exact lawful_mk_mirror h1 _
    · exact lawful_loadEnd h1 _

@[simp] theorem lawful_snapWord (h : s.Lawful) : s.snapWord.Lawful := by
  simp only [State.snapWord]
  (repeat' split)
  · exact h
  · exact lawful_mk_mirror h _
  · exact lawful_capture (lawful_listResult (lawful_mk_mirror h _) _)
  · exact lawful_listResult (lawful_mk_mirror h _) _

end Sys2Proof.Machine
end

