-- ==== Sys2Proof/Laws/Parts.lean ====
section
/-! SUPPORT. What leaves the applied circuit entries and the pending circuit parts alone: every operation of the
Senders and of the blocks before them. And what leaves the circuits and the notice pool alone as well: every operation
of the Report Writer, the Mirror's window and ring parts, and the Story Table. -/

namespace Sys2Proof.Machine

/-- The applied circuit entries and the pending circuit parts. -/
def State.parts (s : State) : Vector CircCfg 8 × Vector Bool 8 := (s.applied.circs, s.mirror.pendCirc)

theorem parts_ccfg {s t : State} (h : t.parts = s.parts) (n : Circ) : t.ccfg n = s.ccfg n := by
  simp [State.ccfg, show t.applied.circs = s.applied.circs from congrArg Prod.fst h]

theorem parts_pendCirc {s t : State} (h : t.parts = s.parts) : t.mirror.pendCirc = s.mirror.pendCirc :=
  congrArg Prod.snd h

section
/-! ### Record updates -/

variable (s : State)

@[simp] theorem parts_mk_mirror (m : Mirror) (h : m.pendCirc = s.mirror.pendCirc) :
    State.parts { s with mirror := m } = s.parts := by simp [State.parts, h]
@[simp] theorem parts_mk_applied (a : Applied) (h : a.circs = s.applied.circs) :
    State.parts { s with applied := a } = s.parts := by simp [State.parts, h]
@[simp] theorem parts_mk_intake (a : Vector FeedCtx 12) : State.parts { s with intake := a } = s.parts := rfl
@[simp] theorem parts_mk_stories (a : Vector (Option Story) 96) :
    State.parts { s with stories := a } = s.parts := rfl
@[simp] theorem parts_mk_admission (a : List Tag) : State.parts { s with admission := a } = s.parts := rfl
@[simp] theorem parts_mk_feedLists (a : Vector (List Tag) 12) :
    State.parts { s with feedLists := a } = s.parts := rfl
@[simp] theorem parts_mk_index (a : List IndexEntry) : State.parts { s with index := a } = s.parts := rfl
@[simp] theorem parts_mk_history (a : List HistEntry) : State.parts { s with history := a } = s.parts := rfl
@[simp] theorem parts_mk_accounts (a : Vector Account 12) :
    State.parts { s with accounts := a } = s.parts := rfl
@[simp] theorem parts_mk_circuits (a : Vector Circuit 8) :
    State.parts { s with circuits := a } = s.parts := rfl
@[simp] theorem parts_mk_pool (a : Vector (Option Notice) 32) :
    State.parts { s with pool := a } = s.parts := rfl
@[simp] theorem parts_mk_writer (a : Writer) : State.parts { s with writer := a } = s.parts := rfl

/-- A fold of operations that each leave it alone. -/
@[simp] theorem parts_foldl {α : Type} (f : State → α → State) (h : ∀ s a, (f s a).parts = s.parts)
    (l : List α) : (l.foldl f s).parts = s.parts := by
  induction l generalizing s with
  | nil => rfl
  | cons a l ih => rw [List.foldl_cons, ih, h]

/-! ### Access -/

@[simp] theorem parts_setCirc (n : Circ) (c : Circuit) :
    State.parts (State.setCirc s n c) = s.parts := by simp [State.setCirc]

@[simp] theorem parts_updLu (n : Circ) (f : LineUnit → LineUnit) :
    State.parts (State.updLu s n f) = s.parts := by simp [State.updLu]

@[simp] theorem parts_updSch (n : Circ) (f : Sched → Sched) :
    State.parts (State.updSch s n f) = s.parts := by simp [State.updSch]

@[simp] theorem parts_updSnd (n : Circ) (f : Sender → Sender) :
    State.parts (State.updSnd s n f) = s.parts := by simp [State.updSnd]

@[simp] theorem parts_updFtc (n : Circ) (f : Fetcher → Fetcher) :
    State.parts (State.updFtc s n f) = s.parts := by simp [State.updFtc]

@[simp] theorem parts_setFcfg (f : Feed) (c : FeedCfg) :
    State.parts (State.setFcfg s f c) = s.parts := by simp [State.setFcfg]

@[simp] theorem parts_setCtx (f : Feed) (c : FeedCtx) :
    State.parts (State.setCtx s f c) = s.parts := by simp [State.setCtx]

@[simp] theorem parts_updCtx (f : Feed) (g : FeedCtx → FeedCtx) :
    State.parts (State.updCtx s f g) = s.parts := by simp [State.updCtx]

@[simp] theorem parts_setAcct (f : Feed) (a : Account) :
    State.parts (State.setAcct s f a) = s.parts := by simp [State.setAcct]

@[simp] theorem parts_setFlist (f : Feed) (l : List Tag) :
    State.parts (State.setFlist s f l) = s.parts := by simp [State.setFlist]

@[simp] theorem parts_setStory (t : Tag) (x : Option Story) :
    State.parts (State.setStory s t x) = s.parts := by simp [State.setStory]

@[simp] theorem parts_updStory (t : Tag) (f : Story → Story) :
    State.parts (State.updStory s t f) = s.parts := by
  unfold State.updStory
  split <;> simp

@[simp] theorem parts_updDelivery (t : Tag) (n : Circ) (f : Delivery → Delivery) :
    State.parts (State.updDelivery s t n f) = s.parts := by simp [State.updDelivery]

@[simp] theorem parts_setNotice (i : Slot32) (x : Option Notice) :
    State.parts (State.setNotice s i x) = s.parts := by simp [State.setNotice]

@[simp] theorem parts_setWriter (w : Writer) :
    State.parts (State.setWriter s w) = s.parts := by simp [State.setWriter]

/-! ### Ops -/

@[simp] theorem parts_listBytes (off : Nat) (be : BitVec 4) (data : Word32) :
    State.parts (State.listBytes s off be data) = s.parts := by simp [State.listBytes]

@[simp] theorem parts_listZero (o : Nat) :
    State.parts (State.listZero s o) = s.parts := by simp [State.listZero]

@[simp] theorem parts_listStatus (status index : Nat) :
    State.parts (State.listStatus s status index) = s.parts := by simp [State.listStatus]

@[simp] theorem parts_listAck (gen : Byte) (status index : Nat) :
    State.parts (State.listAck s gen status index) = s.parts := by simp [State.listAck]

@[simp] theorem parts_listResult (result : Nat) :
    State.parts (State.listResult s result) = s.parts := by simp [State.listResult]

@[simp] theorem parts_resetSettled :
    State.parts (State.resetSettled s) = s.parts := by
  unfold State.resetSettled
  split <;> simp

@[simp] theorem parts_dropReport (r : Report) :
    State.parts (State.dropReport s r) = s.parts := by
  unfold State.dropReport
  split <;> simp

@[simp] theorem parts_beginReport (r : Report) :
    State.parts (State.beginReport s r) = s.parts := by
  unfold State.beginReport
  split <;> simp

@[simp] theorem parts_post (r : Report) :
    State.parts (State.post s r) = s.parts := by
  unfold State.post
  (repeat' split) <;> simp

@[simp] theorem parts_beginQueued (l : List Report) : (s.beginQueued l).parts = s.parts := by
  induction l generalizing s with
  | nil => rfl
  | cons r rs ih =>
    unfold State.beginQueued
    split
    · rfl
    · simp [ih]

@[simp] theorem parts_pumpReports :
    State.parts (State.pumpReports s) = s.parts := by simp [State.pumpReports]

@[simp] theorem parts_recordVisible (j : RecordJob) :
    State.parts (State.recordVisible s j) = s.parts := by
  simp only [State.recordVisible]
  split <;> simp

@[simp] theorem parts_consumeHead :
    State.parts (State.consumeHead s) = s.parts := by simp [State.consumeHead]

/-! ### Apply -/

@[simp] theorem parts_setMarkWin (f : Feed) (p : PartMark) :
    State.parts (State.setMarkWin s f p) = s.parts := by simp [State.setMarkWin]

@[simp] theorem parts_setMarkRing (p : PartMark) :
    State.parts (State.setMarkRing s p) = s.parts := by simp [State.setMarkRing]

@[simp] theorem parts_setWindow (f : Feed) (w : Option Win) :
    State.parts (State.setWindow s f w) = s.parts := by simp [State.setWindow]

@[simp] theorem parts_setRing (w : Option Win) :
    State.parts (State.setRing s w) = s.parts := by simp [State.setRing]

@[simp] theorem parts_retryWin (f : Feed) :
    State.parts (State.retryWin s f) = s.parts := by
  unfold State.retryWin
  split <;> simp

@[simp] theorem parts_retryRing :
    State.parts (State.retryRing s) = s.parts := by
  unfold State.retryRing
  split <;> simp

@[simp] theorem parts_retryAll :
    State.parts (State.retryAll s) = s.parts := by simp [State.retryAll]

@[simp] theorem parts_retryTimes (k : Nat) : (State.retryTimes k s).parts = s.parts := by
  induction k generalizing s with
  | zero => rfl
  | succ k ih => simp [State.retryTimes, ih]

@[simp] theorem parts_reexamine :
    State.parts (State.reexamine s) = s.parts := by
  unfold State.reexamine
  split <;> simp

@[simp] theorem parts_applyCheck :
    State.parts (State.applyCheck s) = s.parts := by
  unfold State.applyCheck
  split <;> simp

@[simp] theorem parts_examineWin (f : Feed) :
    State.parts (State.examineWin s f) = s.parts := by
  simp only [State.examineWin]
  (repeat' split) <;> simp

@[simp] theorem parts_examineRing :
    State.parts (State.examineRing s) = s.parts := by
  simp only [State.examineRing]
  (repeat' split) <;> simp

@[simp] theorem parts_feedBoundary (f : Feed) :
    State.parts (State.feedBoundary s f) = s.parts := by
  unfold State.feedBoundary
  split <;> simp

@[simp] theorem parts_ringBoundary :
    State.parts (State.ringBoundary s) = s.parts := by
  unfold State.ringBoundary
  split <;> simp

/-! ### StoryTable -/

@[simp] theorem parts_warnTest (f : Feed) :
    State.parts (State.warnTest s f) = s.parts := by
  simp only [State.warnTest]
  (repeat' split) <;> simp

@[simp] theorem parts_setAccount (f : Feed) :
    State.parts (State.setAccount s f) = s.parts := by
  unfold State.setAccount
  split <;> simp

@[simp] theorem parts_recompute (f : Feed) :
    State.parts (State.recompute s f) = s.parts := by
  simp only [State.recompute]
  split <;> simp

@[simp] theorem parts_unlink (f : Feed) (t : Tag) :
    State.parts (State.unlink s f t) = s.parts := by
  simp only [State.unlink]
  split <;> simp

@[simp] theorem parts_indexSet (f : Feed) (n : BitVec 16) (t : Tag) :
    State.parts (State.indexSet s f n t) = s.parts := by simp [State.indexSet]

@[simp] theorem parts_indexErase (t : Tag) :
    State.parts (State.indexErase s t) = s.parts := by simp [State.indexErase]

@[simp] theorem parts_historyAdd (h : HistEntry) :
    State.parts (State.historyAdd s h) = s.parts := by simp [State.historyAdd]

@[simp] theorem parts_retireHistory (st : Story) :
    State.parts (State.retireHistory s st) = s.parts := by
  unfold State.retireHistory
  (repeat' split) <;> simp

@[simp] theorem parts_retire (t : Tag) (st : Story) :
    State.parts (State.retire s t st) = s.parts := by simp [State.retire]

@[simp] theorem parts_retireTest (t : Tag) :
    State.parts (State.retireTest s t) = s.parts := by
  unfold State.retireTest
  (repeat' split) <;> simp

@[simp] theorem parts_abandonOnly (t : Tag) (n : Circ) :
    State.parts (State.abandonOnly s t n) = s.parts := by
  unfold State.abandonOnly
  (repeat' split) <;> simp

@[simp] theorem parts_abandon (t : Tag) (n : Circ) :
    State.parts (State.abandon s t n) = s.parts := by simp [State.abandon]

@[simp] theorem parts_releaseRef (i : Slot32) :
    State.parts (State.releaseRef s i) = s.parts := by
  unfold State.releaseRef
  split <;> simp

@[simp] theorem parts_enqueueNew (n : Circ) (i : Item) :
    State.parts (State.enqueueNew s n i) = s.parts := by simp [State.enqueueNew]

@[simp] theorem parts_enqueueBack (n : Circ) (i : Item) :
    State.parts (State.enqueueBack s n i) = s.parts := by simp [State.enqueueBack]

@[simp] theorem parts_dequeue (n : Circ) (i : Item) :
    State.parts (State.dequeue s n i) = s.parts := by simp [State.dequeue]

@[simp] theorem parts_noticeHere (n : Circ) (k : NoticeKind) (x : NoticeSource) :
    State.parts (State.noticeHere s n k x) = s.parts := by
  unfold State.noticeHere
  split <;> simp

/-! ### Sending -/

@[simp] theorem parts_fetchTry (n : Circ) :
    State.parts (State.fetchTry s n) = s.parts := by
  unfold State.fetchTry
  split <;> simp

@[simp] theorem parts_beginSvc (n : Circ) :
    State.parts (State.beginSvc s n) = s.parts := by simp [State.beginSvc]

@[simp] theorem parts_leaveService (n : Circ) :
    State.parts (State.leaveService s n) = s.parts := by simp [State.leaveService]

@[simp] theorem parts_stopNotice (n : Circ) (t : Tag) (st : Story) (stop : StopOrder) :
    State.parts (State.stopNotice s n t st stop) = s.parts := by
  unfold State.stopNotice
  (repeat' split) <;> simp

@[simp] theorem parts_dropPend (n : Circ) :
    State.parts (State.dropPend s n) = s.parts := by simp [State.dropPend]

@[simp] theorem parts_deliveryDone (n : Circ) :
    State.parts (State.deliveryDone s n) = s.parts := by
  unfold State.deliveryDone
  (repeat' split) <;> simp

@[simp] theorem parts_endStop (n : Circ) :
    State.parts (State.endStop s n) = s.parts := by
  unfold State.endStop
  split <;> simp

@[simp] theorem parts_silentStop (n : Circ) :
    State.parts (State.silentStop s n) = s.parts := by
  unfold State.silentStop
  (repeat' split) <;> simp

@[simp] theorem parts_stopLineOrEnd (n : Circ) :
    State.parts (State.stopLineOrEnd s n) = s.parts := by
  unfold State.stopLineOrEnd
  (repeat' split) <;> simp

@[simp] theorem parts_stopHere (n : Circ) :
    State.parts (State.stopHere s n) = s.parts := by
  simp only [State.stopHere]
  split <;> simp

@[simp] theorem parts_preemptDone (n : Circ) :
    State.parts (State.preemptDone s n) = s.parts := by
  simp only [State.preemptDone]
  (repeat' split) <;> simp

@[simp] theorem parts_beginLeave (n : Circ) (k : Leave) :
    State.parts (State.beginLeave s n k) = s.parts := by
  simp only [State.beginLeave]
  split <;> simp

@[simp] theorem parts_enterService (n : Circ) (i : Item) (rest : List Item) :
    State.parts (State.enterService s n i rest) = s.parts := by
  unfold State.enterService
  split <;> simp

@[simp] theorem parts_select (n : Circ) :
    State.parts (State.select s n) = s.parts := by
  unfold State.select
  (repeat' split) <;> simp

@[simp] theorem parts_setPoint (n : Circ) :
    State.parts (State.setPoint s n) = s.parts := by simp [State.setPoint]

@[simp] theorem parts_actAtOnce (n : Circ) :
    State.parts (State.actAtOnce s n) = s.parts := by
  simp only [State.actAtOnce]
  (repeat' split) <;> simp

@[simp] theorem parts_setIdle (n : Circ) :
    State.parts (State.setIdle s n) = s.parts := by simp [State.setIdle]

@[simp] theorem parts_settleLine (n : Circ) :
    State.parts (State.settleLine s n) = s.parts := by simp [State.settleLine]

@[simp] theorem parts_replayCheck (n : Circ) :
    State.parts (State.replayCheck s n) = s.parts := by
  unfold State.replayCheck
  split <;> simp

@[simp] theorem parts_wordTest (n : Circ) :
    State.parts (State.wordTest s n) = s.parts := by
  unfold State.wordTest
  (repeat' split) <;> simp

@[simp] theorem parts_lineTest (n : Circ) (k : NlCause) :
    State.parts (State.lineTest s n k) = s.parts := by
  unfold State.lineTest
  (repeat' split) <;> simp

@[simp] theorem parts_dropCapture (n : Circ) (k : NlCause) :
    State.parts (State.dropCapture s n k) = s.parts := by
  unfold State.dropCapture
  (repeat' split) <;> simp

@[simp] theorem parts_setPhase (n : Circ) (p : Phase) :
    State.parts (State.setPhase s n p) = s.parts := by simp [State.setPhase]

@[simp] theorem parts_enterText (n : Circ) :
    State.parts (State.enterText s n) = s.parts := by simp [State.enterText]

@[simp] theorem parts_lostDone (n : Circ) :
    State.parts (State.lostDone s n) = s.parts := by simp [State.lostDone]

@[simp] theorem parts_noticeSent (n : Circ) :
    State.parts (State.noticeSent s n) = s.parts := by
  unfold State.noticeSent
  split <;> simp

@[simp] theorem parts_headDone (n : Circ) :
    State.parts (State.headDone s n) = s.parts := by
  unfold State.headDone
  split <;> simp

@[simp] theorem parts_svcDone (n : Circ) :
    State.parts (State.svcDone s n) = s.parts := by
  unfold State.svcDone
  split <;> simp

@[simp] theorem parts_openLine (n : Circ) :
    State.parts (State.openLine s n) = s.parts := by
  unfold State.openLine
  split <;> simp

@[simp] theorem parts_nlNext (n : Circ) (k : NlCause) :
    State.parts (State.nlNext s n k) = s.parts := by
  unfold State.nlNext
  (repeat' split) <;> simp

@[simp] theorem parts_lostTest (n : Circ) :
    State.parts (State.lostTest s n) = s.parts := by
  unfold State.lostTest
  split <;> simp

@[simp] theorem parts_wordDone (n : Circ) :
    State.parts (State.wordDone s n) = s.parts := by
  simp only [State.wordDone]
  split <;> simp

@[simp] theorem parts_complete (n : Circ) (m : Mark) :
    State.parts (State.complete s n m) = s.parts := by
  unfold State.complete
  split <;> simp

@[simp] theorem parts_joinSent (n : Circ) (c : SentChar) :
    State.parts (State.joinSent s n c) = s.parts := by
  unfold State.joinSent
  (repeat' split) <;> simp

@[simp] theorem parts_recordChar (n : Circ) (c : SentChar) :
    State.parts (State.recordChar s n c) = s.parts := by
  unfold State.recordChar
  split <;> simp

@[simp] theorem parts_afterRead (n : Circ) (size : Nat) (d : Sender) :
    State.parts (State.afterRead s n size d) = s.parts := by simp [State.afterRead]

@[simp] theorem parts_beginLost (n : Circ) (size : Nat) (u : LUnit) :
    State.parts (State.beginLost s n size u) = s.parts := by
  simp only [State.beginLost]
  split <;> simp

@[simp] theorem parts_storyEnd (n : Circ) (st : Story) :
    State.parts (State.storyEnd s n st) = s.parts := by
  unfold State.storyEnd
  split <;> simp

@[simp] theorem parts_askTurn (n : Circ) :
    State.parts (State.askTurn s n).1 = s.parts := by
  simp only [State.askTurn]
  (repeat' split) <;> simp

@[simp] theorem parts_ask (k : Nat) (n : Circ) : (State.ask k s n).parts = s.parts := by
  induction k generalizing s with
  | zero => rfl
  | succ k ih =>
    simp only [State.ask]
    (repeat' split) <;> simp [ih]

@[simp] theorem parts_holdNewline (n : Circ) :
    State.parts (State.holdNewline s n) = s.parts := by
  simp only [State.holdNewline]
  split <;> simp

@[simp] theorem parts_beginSlot (n : Circ) :
    State.parts (State.beginSlot s n) = s.parts := by
  simp only [State.beginSlot]
  (repeat' split) <;> simp

end

/-- Those, with the circuits and the notice pool. -/
def State.yard (s : State) : Vector Circuit 8 × Vector (Option Notice) 32 × Vector CircCfg 8 × Vector Bool 8 :=
  (s.circuits, s.pool, s.applied.circs, s.mirror.pendCirc)

theorem yard_circ {s t : State} (h : t.yard = s.yard) (n : Circ) : t.circ n = s.circ n := by
  simp [State.circ, show t.circuits = s.circuits from congrArg Prod.fst h]

theorem yard_notice {s t : State} (h : t.yard = s.yard) (i : Slot32) : t.notice i = s.notice i := by
  simp [State.notice, show t.pool = s.pool from congrArg (fun x => x.2.1) h]

section
/-! ### Record updates -/

variable (s : State)

@[simp] theorem yard_mk_mirror (m : Mirror) (h : m.pendCirc = s.mirror.pendCirc) :
    State.yard { s with mirror := m } = s.yard := by simp [State.yard, h]
@[simp] theorem yard_mk_applied (a : Applied) (h : a.circs = s.applied.circs) :
    State.yard { s with applied := a } = s.yard := by simp [State.yard, h]
@[simp] theorem yard_mk_intake (a : Vector FeedCtx 12) : State.yard { s with intake := a } = s.yard := rfl
@[simp] theorem yard_mk_stories (a : Vector (Option Story) 96) :
    State.yard { s with stories := a } = s.yard := rfl
@[simp] theorem yard_mk_admission (a : List Tag) : State.yard { s with admission := a } = s.yard := rfl
@[simp] theorem yard_mk_feedLists (a : Vector (List Tag) 12) :
    State.yard { s with feedLists := a } = s.yard := rfl
@[simp] theorem yard_mk_index (a : List IndexEntry) : State.yard { s with index := a } = s.yard := rfl
@[simp] theorem yard_mk_history (a : List HistEntry) : State.yard { s with history := a } = s.yard := rfl
@[simp] theorem yard_mk_accounts (a : Vector Account 12) :
    State.yard { s with accounts := a } = s.yard := rfl
@[simp] theorem yard_mk_writer (a : Writer) : State.yard { s with writer := a } = s.yard := rfl

/-- A fold of operations that each leave it alone. -/
@[simp] theorem yard_foldl {α : Type} (f : State → α → State) (h : ∀ s a, (f s a).yard = s.yard)
    (l : List α) : (l.foldl f s).yard = s.yard := by
  induction l generalizing s with
  | nil => rfl
  | cons a l ih => rw [List.foldl_cons, ih, h]

/-! ### Access -/

@[simp] theorem yard_setFcfg (f : Feed) (c : FeedCfg) :
    State.yard (State.setFcfg s f c) = s.yard := by simp [State.setFcfg]

@[simp] theorem yard_setCtx (f : Feed) (c : FeedCtx) :
    State.yard (State.setCtx s f c) = s.yard := by simp [State.setCtx]

@[simp] theorem yard_updCtx (f : Feed) (g : FeedCtx → FeedCtx) :
    State.yard (State.updCtx s f g) = s.yard := by simp [State.updCtx]

@[simp] theorem yard_setAcct (f : Feed) (a : Account) :
    State.yard (State.setAcct s f a) = s.yard := by simp [State.setAcct]

@[simp] theorem yard_setFlist (f : Feed) (l : List Tag) :
    State.yard (State.setFlist s f l) = s.yard := by simp [State.setFlist]

@[simp] theorem yard_setStory (t : Tag) (x : Option Story) :
    State.yard (State.setStory s t x) = s.yard := by simp [State.setStory]

@[simp] theorem yard_updStory (t : Tag) (f : Story → Story) :
    State.yard (State.updStory s t f) = s.yard := by
  unfold State.updStory
  split <;> simp

@[simp] theorem yard_updDelivery (t : Tag) (n : Circ) (f : Delivery → Delivery) :
    State.yard (State.updDelivery s t n f) = s.yard := by simp [State.updDelivery]

@[simp] theorem yard_setWriter (w : Writer) :
    State.yard (State.setWriter s w) = s.yard := by simp [State.setWriter]

/-! ### Ops -/

@[simp] theorem yard_listBytes (off : Nat) (be : BitVec 4) (data : Word32) :
    State.yard (State.listBytes s off be data) = s.yard := by simp [State.listBytes]

@[simp] theorem yard_listZero (o : Nat) :
    State.yard (State.listZero s o) = s.yard := by simp [State.listZero]

@[simp] theorem yard_listStatus (status index : Nat) :
    State.yard (State.listStatus s status index) = s.yard := by simp [State.listStatus]

@[simp] theorem yard_listAck (gen : Byte) (status index : Nat) :
    State.yard (State.listAck s gen status index) = s.yard := by simp [State.listAck]

@[simp] theorem yard_listResult (result : Nat) :
    State.yard (State.listResult s result) = s.yard := by simp [State.listResult]

@[simp] theorem yard_resetSettled :
    State.yard (State.resetSettled s) = s.yard := by
  unfold State.resetSettled
  split <;> simp

@[simp] theorem yard_dropReport (r : Report) :
    State.yard (State.dropReport s r) = s.yard := by
  unfold State.dropReport
  split <;> simp

@[simp] theorem yard_beginReport (r : Report) :
    State.yard (State.beginReport s r) = s.yard := by
  unfold State.beginReport
  split <;> simp

@[simp] theorem yard_post (r : Report) :
    State.yard (State.post s r) = s.yard := by
  unfold State.post
  (repeat' split) <;> simp

@[simp] theorem yard_beginQueued (l : List Report) : (s.beginQueued l).yard = s.yard := by
  induction l generalizing s with
  | nil => rfl
  | cons r rs ih =>
    unfold State.beginQueued
    split
    · rfl
    · simp [ih]

@[simp] theorem yard_pumpReports :
    State.yard (State.pumpReports s) = s.yard := by simp [State.pumpReports]

@[simp] theorem yard_recordVisible (j : RecordJob) :
    State.yard (State.recordVisible s j) = s.yard := by
  simp only [State.recordVisible]
  split <;> simp

@[simp] theorem yard_consumeHead :
    State.yard (State.consumeHead s) = s.yard := by simp [State.consumeHead]

/-! ### Apply -/

@[simp] theorem yard_setMarkWin (f : Feed) (p : PartMark) :
    State.yard (State.setMarkWin s f p) = s.yard := by simp [State.setMarkWin]

@[simp] theorem yard_setMarkRing (p : PartMark) :
    State.yard (State.setMarkRing s p) = s.yard := by simp [State.setMarkRing]

@[simp] theorem yard_setWindow (f : Feed) (w : Option Win) :
    State.yard (State.setWindow s f w) = s.yard := by simp [State.setWindow]

@[simp] theorem yard_setRing (w : Option Win) :
    State.yard (State.setRing s w) = s.yard := by simp [State.setRing]

@[simp] theorem yard_retryWin (f : Feed) :
    State.yard (State.retryWin s f) = s.yard := by
  unfold State.retryWin
  split <;> simp

@[simp] theorem yard_retryRing :
    State.yard (State.retryRing s) = s.yard := by
  unfold State.retryRing
  split <;> simp

@[simp] theorem yard_retryAll :
    State.yard (State.retryAll s) = s.yard := by simp [State.retryAll]

@[simp] theorem yard_retryTimes (k : Nat) : (State.retryTimes k s).yard = s.yard := by
  induction k generalizing s with
  | zero => rfl
  | succ k ih => simp [State.retryTimes, ih]

@[simp] theorem yard_reexamine :
    State.yard (State.reexamine s) = s.yard := by
  unfold State.reexamine
  split <;> simp

@[simp] theorem yard_applyCheck :
    State.yard (State.applyCheck s) = s.yard := by
  unfold State.applyCheck
  split <;> simp

@[simp] theorem yard_examineWin (f : Feed) :
    State.yard (State.examineWin s f) = s.yard := by
  simp only [State.examineWin]
  (repeat' split) <;> simp

@[simp] theorem yard_examineRing :
    State.yard (State.examineRing s) = s.yard := by
  simp only [State.examineRing]
  (repeat' split) <;> simp

@[simp] theorem yard_feedBoundary (f : Feed) :
    State.yard (State.feedBoundary s f) = s.yard := by
  unfold State.feedBoundary
  split <;> simp

@[simp] theorem yard_ringBoundary :
    State.yard (State.ringBoundary s) = s.yard := by
  unfold State.ringBoundary
  split <;> simp

/-! ### StoryTable -/

@[simp] theorem yard_warnTest (f : Feed) :
    State.yard (State.warnTest s f) = s.yard := by
  simp only [State.warnTest]
  (repeat' split) <;> simp

@[simp] theorem yard_setAccount (f : Feed) :
    State.yard (State.setAccount s f) = s.yard := by
  unfold State.setAccount
  split <;> simp

@[simp] theorem yard_recompute (f : Feed) :
    State.yard (State.recompute s f) = s.yard := by
  simp only [State.recompute]
  split <;> simp

@[simp] theorem yard_unlink (f : Feed) (t : Tag) :
    State.yard (State.unlink s f t) = s.yard := by
  simp only [State.unlink]
  split <;> simp

@[simp] theorem yard_indexSet (f : Feed) (n : BitVec 16) (t : Tag) :
    State.yard (State.indexSet s f n t) = s.yard := by simp [State.indexSet]

@[simp] theorem yard_indexErase (t : Tag) :
    State.yard (State.indexErase s t) = s.yard := by simp [State.indexErase]

@[simp] theorem yard_historyAdd (h : HistEntry) :
    State.yard (State.historyAdd s h) = s.yard := by simp [State.historyAdd]

@[simp] theorem yard_retireHistory (st : Story) :
    State.yard (State.retireHistory s st) = s.yard := by
  unfold State.retireHistory
  (repeat' split) <;> simp

@[simp] theorem yard_retire (t : Tag) (st : Story) :
    State.yard (State.retire s t st) = s.yard := by simp [State.retire]

@[simp] theorem yard_retireTest (t : Tag) :
    State.yard (State.retireTest s t) = s.yard := by
  unfold State.retireTest
  (repeat' split) <;> simp

@[simp] theorem yard_abandonOnly (t : Tag) (n : Circ) :
    State.yard (State.abandonOnly s t n) = s.yard := by
  unfold State.abandonOnly
  (repeat' split) <;> simp

@[simp] theorem yard_abandon (t : Tag) (n : Circ) :
    State.yard (State.abandon s t n) = s.yard := by simp [State.abandon]

end

end Sys2Proof.Machine
end

