-- ==== Sys2Proof/Laws/Passage.lean ====
section
/-! SUPPORT. What the end of an event, the hand-over of a host transaction and the completions of the part's own
accesses can do. -/

namespace Sys2Proof.Machine

variable (s : State)

/-! ### The arbiter -/

/-- What a grant may change of the bus: the port, the waiting request, the pointer and the streak, and nothing at
all while RESET is asserted. -/
structure Bus.Moved (b b' : Bus) : Prop where
  resetAsserted : b'.resetAsserted = b.resetAsserted
  page : b'.page = b.page
  loadStrap : b'.loadStrap = b.loadStrap
  hostReply : b'.hostReply = b.hostReply
  streak : b.streak ≤ 8 → b'.streak ≤ 8
  held : b.resetAsserted = true → b' = b

theorem Bus.Moved.refl (b : Bus) : Bus.Moved b b := ⟨rfl, rfl, rfl, rfl, id, fun _ => rfl⟩

/-- t is s after a grant: only the bus, the write list and the Mirror's placed request may differ. -/
def Granted (s t : State) : Prop :=
  ∃ b l r, t = { s with bus := b, mirror := { s.mirror with writeList := l, req := r } } ∧ Bus.Moved s.bus b

theorem Granted.refl : Granted s s := ⟨s.bus, s.mirror.writeList, s.mirror.req, rfl, Bus.Moved.refl _⟩

theorem occupy_granted (hr : s.bus.resetAsserted = false) (q : Requester) (x : Txn) : Granted s (s.occupy q x) :=
  ⟨_, s.mirror.writeList, s.mirror.req, rfl, rfl, rfl, rfl, rfl, id, by simp [hr]⟩

theorem grantHost_granted (hr : s.bus.resetAsserted = false) (x : Txn) (k : Nat) (hk : k ≤ 8) :
    Granted s (s.grantHost x k) :=
  ⟨_, s.mirror.writeList, s.mirror.req, rfl, rfl, rfl, rfl, rfl, fun _ => hk, by simp [hr]⟩

theorem grantMirror_granted (hr : s.bus.resetAsserted = false) : Granted s s.grantMirror := by
  have hs : Granted s { s with mirror := { s.mirror with req := none } } :=
    ⟨s.bus, s.mirror.writeList, none, rfl, Bus.Moved.refl _⟩
  simp only [State.grantMirror]
  split
  · exact Granted.refl s
  · split
    · exact hs
    · exact ⟨_, _, _, rfl, rfl, rfl, rfl, rfl, id, by simp [hr]⟩
  · split
    · exact hs
    · exact ⟨_, s.mirror.writeList, _, rfl, rfl, rfl, rfl, rfl, id, by simp [hr]⟩
  · split
    · exact hs
    · exact ⟨_, s.mirror.writeList, _, rfl, rfl, rfl, rfl, rfl, id, by simp [hr]⟩

theorem Granted.trans {s t u : State} (h : Granted s t) (k : Granted t u) : Granted s u := by
  obtain ⟨b, l, r, rfl, hb⟩ := h
  obtain ⟨b', l', r', rfl, hb'⟩ := k
  exact ⟨b', l', r', rfl, hb'.resetAsserted.trans hb.resetAsserted, hb'.page.trans hb.page,
    hb'.loadStrap.trans hb.loadStrap, hb'.hostReply.trans hb.hostReply, fun k => hb'.streak (hb.streak k),
    fun k => (hb'.held (hb.resetAsserted.trans k)).trans (hb.held k)⟩

theorem grantInternal_granted (hr : s.bus.resetAsserted = false) (i : Internal) :
    Granted s (s.grantInternal i) := by
  have h1 : Granted s { s with bus := { s.bus with rr := i, streak := 0 } } :=
    ⟨_, s.mirror.writeList, s.mirror.req, rfl, rfl, rfl, rfl, rfl, fun _ => Nat.zero_le _, by simp [hr]⟩
  refine h1.trans ?_
  simp only [State.grantInternal]
  split
  · unfold State.grantFetch
    split
    · exact Granted.refl _
    · exact occupy_granted _ (by exact hr) _ _
  · unfold State.grantRecord
    split
    · exact occupy_granted _ (by exact hr) _ _
    · exact Granted.refl _
  · exact grantMirror_granted _ (by exact hr)

theorem grant_granted : Granted s s.grant := by
  unfold State.grant
  split
  · exact Granted.refl s
  · rename_i h
    have hr : s.bus.resetAsserted = false := by
      cases hr : s.bus.resetAsserted <;> simp [hr] at h ⊢
    split
    · exact Granted.refl s
    · exact grantInternal_granted s hr _
    · exact grantHost_granted s hr _ 0 (by omega)
    · split
      · exact grantHost_granted s hr _ _ (by omega)
      · exact grantInternal_granted s hr _

theorem placeMirror_granted : Granted s s.placeMirror := by
  unfold State.placeMirror
  split
  · exact Granted.refl s
  · exact ⟨s.bus, s.mirror.writeList, _, rfl, Bus.Moved.refl _⟩

theorem acceptHost_granted : Granted s s.acceptHost := by
  unfold State.acceptHost
  split
  · exact Granted.refl s
  · split
    · exact Granted.refl s
    · rename_i h
      have hr : s.bus.resetAsserted = false := by
        cases hr : s.bus.resetAsserted <;> simp [hr] at h ⊢
      exact ⟨_, s.mirror.writeList, s.mirror.req, rfl, rfl, rfl, rfl, rfl, id, by simp [hr]⟩

/-- Everything the end of an event can do (R9, R10, R11, R18). -/
theorem settleBus_granted : Granted s s.settleBus :=
  (acceptHost_granted s).trans ((placeMirror_granted _).trans (grant_granted _))

/-! The fields a grant leaves alone. -/

@[simp] theorem settleBus_applied : s.settleBus.applied = s.applied := by
  obtain ⟨b, l, r, h, -⟩ := settleBus_granted s; simp [h]
@[simp] theorem settleBus_intake : s.settleBus.intake = s.intake := by
  obtain ⟨b, l, r, h, -⟩ := settleBus_granted s; simp [h]
@[simp] theorem settleBus_stories : s.settleBus.stories = s.stories := by
  obtain ⟨b, l, r, h, -⟩ := settleBus_granted s; simp [h]
@[simp] theorem settleBus_admission : s.settleBus.admission = s.admission := by
  obtain ⟨b, l, r, h, -⟩ := settleBus_granted s; simp [h]
@[simp] theorem settleBus_feedLists : s.settleBus.feedLists = s.feedLists := by
  obtain ⟨b, l, r, h, -⟩ := settleBus_granted s; simp [h]
@[simp] theorem settleBus_index : s.settleBus.index = s.index := by
  obtain ⟨b, l, r, h, -⟩ := settleBus_granted s; simp [h]
@[simp] theorem settleBus_history : s.settleBus.history = s.history := by
  obtain ⟨b, l, r, h, -⟩ := settleBus_granted s; simp [h]
@[simp] theorem settleBus_accounts : s.settleBus.accounts = s.accounts := by
  obtain ⟨b, l, r, h, -⟩ := settleBus_granted s; simp [h]
@[simp] theorem settleBus_circuits : s.settleBus.circuits = s.circuits := by
  obtain ⟨b, l, r, h, -⟩ := settleBus_granted s; simp [h]
@[simp] theorem settleBus_pool : s.settleBus.pool = s.pool := by
  obtain ⟨b, l, r, h, -⟩ := settleBus_granted s; simp [h]
@[simp] theorem settleBus_writer : s.settleBus.writer = s.writer := by
  obtain ⟨b, l, r, h, -⟩ := settleBus_granted s; simp [h]
@[simp] theorem settleBus_mem : s.settleBus.mem = s.mem := by
  obtain ⟨b, l, r, h, -⟩ := settleBus_granted s; simp [h]
@[simp] theorem settleBus_freeCount : s.settleBus.freeCount = s.freeCount := by
  obtain ⟨b, l, r, h, -⟩ := settleBus_granted s; simp [h]
@[simp] theorem settleBus_pending : s.settleBus.pending = s.pending := by
  obtain ⟨b, l, r, h, -⟩ := settleBus_granted s; simp [h]
@[simp] theorem settleBus_staging : s.settleBus.mirror.staging = s.mirror.staging := by
  obtain ⟨b, l, r, h, -⟩ := settleBus_granted s; simp [h]
@[simp] theorem settleBus_circ (n : Circ) : s.settleBus.circ n = s.circ n := by simp [State.circ]
@[simp] theorem settleBus_story (t : Tag) : s.settleBus.story t = s.story t := by simp [State.story]
@[simp] theorem settleBus_hostReply : s.settleBus.bus.hostReply = s.bus.hostReply := by
  obtain ⟨b, l, r, h, hb⟩ := settleBus_granted s; simp [h, hb.hostReply]

@[simp] theorem lawful_settleBus {s : State} (h : s.Lawful) : s.settleBus.Lawful := by
  obtain ⟨b, l, r, hs, hb⟩ := settleBus_granted s
  rw [hs]
  exact State.Lawful.congr h rfl rfl (fun _ => rfl) hb.page

/-! ### The hand-over and the completions -/

@[simp] theorem outer_ringRead (slot word : Nat) : (s.ringRead slot word).outer = s.outer := by
  unfold State.ringRead
  split <;> simp

@[simp] theorem lawful_ringRead {s : State} (h : s.Lawful) (slot word : Nat) : (s.ringRead slot word).Lawful := by
  unfold State.ringRead
  split
  · rename_i hc
    simp only [State.consumes, Bool.and_eq_true, decide_eq_true_eq] at hc
    exact lawful_pumpReports (lawful_ringBoundary (lawful_consumeHead h hc.2))
  · exact h

@[simp] theorem lawful_handOn {s : State} (h : s.Lawful) (t : Txn) : (s.handOn t).Lawful := by
  unfold State.handOn
  split <;> simp [h]

/-- The hand-over changes staging, by a page write, and nothing else on the rim (R6, R17). -/
theorem rim_handOn (t : Txn) :
    (s.handOn t).rim = s.rim ∨ ∃ off, (s.handOn t).rim = (s.stageWrite off t.be t.data).rim := by
  unfold State.handOn
  split
  · exact .inr ⟨_, rim_pageWrite s _ _ _⟩
  · exact .inl (rim_of_outer (outer_feedWrite _ _ _ _ _))
  · exact .inl (rim_of_outer (outer_ringRead _ _ _))
  · exact .inl rfl

@[simp] theorem outer_tellFault (n : Circ) (f : Fetch) : (s.tellFault n f).outer = s.outer := by
  unfold State.tellFault
  (repeat' split) <;> simp

@[simp] theorem outer_fetchDone (n : Circ) (f : Fetch) : (s.fetchDone n f).outer = s.outer := by
  unfold State.fetchDone
  split <;> simp

@[simp] theorem outer_fetchWord (n : Circ) (d : Word32) (fault : Bool) :
    (s.fetchWord n d fault).outer = s.outer := by
  simp only [State.fetchWord]
  (repeat' split) <;> simp

@[simp] theorem outer_recordWord : s.recordWord.outer = s.outer := by
  unfold State.recordWord
  (repeat' split) <;> simp

@[simp] theorem lawful_tellFault {s : State} (h : s.Lawful) (n : Circ) (f : Fetch) :
    (s.tellFault n f).Lawful := by
  unfold State.tellFault
  (repeat' split) <;> simp [h]

@[simp] theorem lawful_fetchDone {s : State} (h : s.Lawful) (n : Circ) (f : Fetch) :
    (s.fetchDone n f).Lawful := by
  unfold State.fetchDone
  split <;> simp [h]

@[simp] theorem lawful_fetchWord {s : State} (h : s.Lawful) (n : Circ) (d : Word32) (fault : Bool) :
    (s.fetchWord n d fault).Lawful := by
  simp only [State.fetchWord]
  (repeat' split) <;> simp [h]

@[simp] theorem lawful_recordWord {s : State} (h : s.Lawful) : s.recordWord.Lawful := by
  unfold State.recordWord
  split
  · exact h
  · rename_i j hj
    split
    · have w := h.writer
      refine h.withWriter ⟨w.queue, w.lost, w.flags, w.attn, fun v hv => ?_, w.head, w.tail⟩
      have := w.fits v hv
      simpa [hj] using this
    · exact lawful_pumpReports (lawful_recordVisible h (by simp [hj]) j)

end Sys2Proof.Machine
end

