-- ==== Sys2Proof/Laws/PerInstr.lean ====
section
/-! SUPPORT. What holds of every command as syntax: it is well formed, but for a presented read with write data,
and no table word spells it. -/

namespace Sys2Proof

/-- A command is well formed exactly when the transaction it presents, if any, is; and the table gives no row
bits, so no word decodes to it. -/
def Laws.WellFormed.Statement (i : Instr) : Prop :=
  (i.wellFormed = true ↔ ∀ t, i = .hostRequest t → t.wellFormed = true) ∧
    ∀ nbits w, decodeTableWord nbits w ≠ some i

theorem Laws.WellFormed.powerOnReset :
    Laws.WellFormed.Statement (.powerOnReset) :=
  ⟨by simp [Instr.wellFormed], fun _ _ => by simp [decodeTableWord]⟩

theorem Laws.WellFormed.resetRelease (page : BitVec 2) (load : Bool) :
    Laws.WellFormed.Statement (.resetRelease page load) :=
  ⟨by simp [Instr.wellFormed], fun _ _ => by simp [decodeTableWord]⟩

theorem Laws.WellFormed.hostRequest (t : Txn) :
    Laws.WellFormed.Statement (.hostRequest t) :=
  ⟨by simp [Instr.wellFormed], fun _ _ => by simp [decodeTableWord]⟩

theorem Laws.WellFormed.hostReadFault :
    Laws.WellFormed.Statement (.hostReadFault) :=
  ⟨by simp [Instr.wellFormed], fun _ _ => by simp [decodeTableWord]⟩

theorem Laws.WellFormed.controlPageWrite :
    Laws.WellFormed.Statement (.controlPageWrite) :=
  ⟨by simp [Instr.wellFormed], fun _ _ => by simp [decodeTableWord]⟩

theorem Laws.WellFormed.generationWrite :
    Laws.WellFormed.Statement (.generationWrite) :=
  ⟨by simp [Instr.wellFormed], fun _ _ => by simp [decodeTableWord]⟩

theorem Laws.WellFormed.softReset :
    Laws.WellFormed.Statement (.softReset) :=
  ⟨by simp [Instr.wellFormed], fun _ _ => by simp [decodeTableWord]⟩

theorem Laws.WellFormed.hold (n : Circ) :
    Laws.WellFormed.Statement (.hold n) :=
  ⟨by simp [Instr.wellFormed], fun _ _ => by simp [decodeTableWord]⟩

theorem Laws.WellFormed.release (n : Circ) :
    Laws.WellFormed.Statement (.release n) :=
  ⟨by simp [Instr.wellFormed], fun _ _ => by simp [decodeTableWord]⟩

theorem Laws.WellFormed.clear (n : Circ) :
    Laws.WellFormed.Statement (.clear n) :=
  ⟨by simp [Instr.wellFormed], fun _ _ => by simp [decodeTableWord]⟩

theorem Laws.WellFormed.stopMotor (n : Circ) :
    Laws.WellFormed.Statement (.stopMotor n) :=
  ⟨by simp [Instr.wellFormed], fun _ _ => by simp [decodeTableWord]⟩

theorem Laws.WellFormed.killTag :
    Laws.WellFormed.Statement (.killTag) :=
  ⟨by simp [Instr.wellFormed], fun _ _ => by simp [decodeTableWord]⟩

theorem Laws.WellFormed.reclass :
    Laws.WellFormed.Statement (.reclass) :=
  ⟨by simp [Instr.wellFormed], fun _ _ => by simp [decodeTableWord]⟩

theorem Laws.WellFormed.snapshot :
    Laws.WellFormed.Statement (.snapshot) :=
  ⟨by simp [Instr.wellFormed], fun _ _ => by simp [decodeTableWord]⟩

theorem Laws.WellFormed.hostFeedWrite :
    Laws.WellFormed.Statement (.hostFeedWrite) :=
  ⟨by simp [Instr.wellFormed], fun _ _ => by simp [decodeTableWord]⟩

theorem Laws.WellFormed.reportHeadRead :
    Laws.WellFormed.Statement (.reportHeadRead) :=
  ⟨by simp [Instr.wellFormed], fun _ _ => by simp [decodeTableWord]⟩

theorem Laws.WellFormed.fetchWordComplete (fault : Bool) :
    Laws.WellFormed.Statement (.fetchWordComplete fault) :=
  ⟨by simp [Instr.wellFormed], fun _ _ => by simp [decodeTableWord]⟩

theorem Laws.WellFormed.recordWordComplete :
    Laws.WellFormed.Statement (.recordWordComplete) :=
  ⟨by simp [Instr.wellFormed], fun _ _ => by simp [decodeTableWord]⟩

theorem Laws.WellFormed.mirrorWriteComplete :
    Laws.WellFormed.Statement (.mirrorWriteComplete) :=
  ⟨by simp [Instr.wellFormed], fun _ _ => by simp [decodeTableWord]⟩

theorem Laws.WellFormed.snapshotWordWrite :
    Laws.WellFormed.Statement (.snapshotWordWrite) :=
  ⟨by simp [Instr.wellFormed], fun _ _ => by simp [decodeTableWord]⟩

theorem Laws.WellFormed.pageLoadRead (fault : Bool) :
    Laws.WellFormed.Statement (.pageLoadRead fault) :=
  ⟨by simp [Instr.wellFormed], fun _ _ => by simp [decodeTableWord]⟩

theorem Laws.WellFormed.slotComplete (n : Circ) :
    Laws.WellFormed.Statement (.slotComplete n) :=
  ⟨by simp [Instr.wellFormed], fun _ _ => by simp [decodeTableWord]⟩

theorem Laws.WellFormed.idleTimeout (n : Circ) :
    Laws.WellFormed.Statement (.idleTimeout n) :=
  ⟨by simp [Instr.wellFormed], fun _ _ => by simp [decodeTableWord]⟩

theorem Laws.WellFormed.starveLimitReached (n : Circ) :
    Laws.WellFormed.Statement (.starveLimitReached n) :=
  ⟨by simp [Instr.wellFormed], fun _ _ => by simp [decodeTableWord]⟩

theorem Laws.WellFormed.breakDetected (n : Circ) :
    Laws.WellFormed.Statement (.breakDetected n) :=
  ⟨by simp [Instr.wellFormed], fun _ _ => by simp [decodeTableWord]⟩

theorem Laws.WellFormed.breakClear (n : Circ) :
    Laws.WellFormed.Statement (.breakClear n) :=
  ⟨by simp [Instr.wellFormed], fun _ _ => by simp [decodeTableWord]⟩

theorem Laws.WellFormed.loopFault (n : Circ) :
    Laws.WellFormed.Statement (.loopFault n) :=
  ⟨by simp [Instr.wellFormed], fun _ _ => by simp [decodeTableWord]⟩

theorem Laws.WellFormed.faultRestore (n : Circ) :
    Laws.WellFormed.Statement (.faultRestore n) :=
  ⟨by simp [Instr.wellFormed], fun _ _ => by simp [decodeTableWord]⟩

theorem Laws.WellFormed.hostTransactionComplete :
    Laws.WellFormed.Statement (.hostTransactionComplete) :=
  ⟨by simp [Instr.wellFormed], fun _ _ => by simp [decodeTableWord]⟩

theorem Laws.WellFormed.senseInputLevelChange (n : Circ) (asserted : Bool) :
    Laws.WellFormed.Statement (.senseInputLevelChange n asserted) :=
  ⟨by simp [Instr.wellFormed], fun _ _ => by simp [decodeTableWord]⟩

end Sys2Proof
end

