-- ==== Sys2Proof/Laws/Station.lean ====
section
/-! SUPPORT. What the blocks other than the Line Units never touch of a Line Unit: everything but its slot, its idle
timer and its capture record. One lemma for each operation of the Report Writer, the Mirror's parts, the Story Table
and the Senders. -/

namespace Sys2Proof.Machine

/-- A Line Unit with the three fields its Sender and Scheduler may change left out. -/
def LineUnit.fixed (l : LineUnit) : LineUnit := { l with slot := none, idle := none, capture := none }

@[simp] theorem fixed_slot (l : LineUnit) (x : Option Slot) : LineUnit.fixed { l with slot := x } = l.fixed := rfl
@[simp] theorem fixed_idle (l : LineUnit) (x : Option Nat) : LineUnit.fixed { l with idle := x } = l.fixed := rfl
@[simp] theorem fixed_capture (l : LineUnit) (x : Option Capture) :
    LineUnit.fixed { l with capture := x } = l.fixed := rfl

/-- The fixed part of every Line Unit. -/
def State.station (s : State) : Circ → LineUnit := fun n => (s.circ n).lu.fixed

theorem station_lu {s t : State} (h : t.station = s.station) (n : Circ) :
    (t.circ n).lu.fixed = (s.circ n).lu.fixed := congrFun h n

/-- An operation that leaves the stations alone leaves every circuit in its state. -/
theorem station_state {s t : State} (h : t.station = s.station) (n : Circ) :
    (t.circ n).lu.state = (s.circ n).lu.state := by
  simpa [LineUnit.fixed] using congrArg LineUnit.state (station_lu h n)

/-! ### Record updates -/

variable (s : State)

theorem station_setCirc (n : Circ) (c : Circuit) (h : c.lu.fixed = (s.circ n).lu.fixed) :
    (s.setCirc n c).station = s.station := by
  funext m
  by_cases hm : n = m
  · subst hm; simpa [State.station] using h
  · simp [State.station, circ_setCirc, hm]

@[simp] theorem station_updLu (n : Circ) (f : LineUnit → LineUnit) (h : ∀ l, (f l).fixed = l.fixed) :
    (s.updLu n f).station = s.station := station_setCirc s n _ (h _)
@[simp] theorem station_updSch (n : Circ) (f : Sched → Sched) : (s.updSch n f).station = s.station :=
  station_setCirc s n _ rfl
@[simp] theorem station_updSnd (n : Circ) (f : Sender → Sender) : (s.updSnd n f).station = s.station :=
  station_setCirc s n _ rfl
@[simp] theorem station_updFtc (n : Circ) (f : Fetcher → Fetcher) : (s.updFtc n f).station = s.station :=
  station_setCirc s n _ rfl

@[simp] theorem station_mk_bus (a : Bus) : State.station { s with bus := a } = s.station := rfl
@[simp] theorem station_mk_mirror (a : Mirror) : State.station { s with mirror := a } = s.station := rfl
@[simp] theorem station_mk_applied (a : Applied) : State.station { s with applied := a } = s.station := rfl
@[simp] theorem station_mk_intake (a : Vector FeedCtx 12) : State.station { s with intake := a } = s.station := rfl
@[simp] theorem station_mk_stories (a : Vector (Option Story) 96) : State.station { s with stories := a } = s.station := rfl
@[simp] theorem station_mk_admission (a : List Tag) : State.station { s with admission := a } = s.station := rfl
@[simp] theorem station_mk_feedLists (a : Vector (List Tag) 12) : State.station { s with feedLists := a } = s.station := rfl
@[simp] theorem station_mk_index (a : List IndexEntry) : State.station { s with index := a } = s.station := rfl
@[simp] theorem station_mk_history (a : List HistEntry) : State.station { s with history := a } = s.station := rfl
@[simp] theorem station_mk_accounts (a : Vector Account 12) : State.station { s with accounts := a } = s.station := rfl
@[simp] theorem station_mk_pool (a : Vector (Option Notice) 32) : State.station { s with pool := a } = s.station := rfl
@[simp] theorem station_mk_writer (a : Writer) : State.station { s with writer := a } = s.station := rfl
@[simp] theorem station_mk_mem (a : Memory) : State.station { s with mem := a } = s.station := rfl
@[simp] theorem station_mk_freeCount (a : Nat) : State.station { s with freeCount := a } = s.station := rfl
@[simp] theorem station_mk_pending (a : List Instr) : State.station { s with pending := a } = s.station := rfl

/-- A fold of operations that each leave the stations alone. -/
@[simp] theorem station_foldl {α : Type} (f : State → α → State) (h : ∀ s a, (f s a).station = s.station)
    (l : List α) : (l.foldl f s).station = s.station := by
  induction l generalizing s with
  | nil => rfl
  | cons a l ih => rw [List.foldl_cons, ih, h]

/-! ### Access -/

@[simp] theorem station_setFcfg (f : Feed) (c : FeedCfg) :
    State.station (State.setFcfg s f c) = s.station := by simp [State.setFcfg]

@[simp] theorem station_setCtx (f : Feed) (c : FeedCtx) :
    State.station (State.setCtx s f c) = s.station := by simp [State.setCtx]

@[simp] theorem station_updCtx (f : Feed) (g : FeedCtx → FeedCtx) :
    State.station (State.updCtx s f g) = s.station := by simp [State.updCtx]

@[simp] theorem station_setAcct (f : Feed) (a : Account) :
    State.station (State.setAcct s f a) = s.station := by simp [State.setAcct]

@[simp] theorem station_setFlist (f : Feed) (l : List Tag) :
    State.station (State.setFlist s f l) = s.station := by simp [State.setFlist]

@[simp] theorem station_setStory (t : Tag) (x : Option Story) :
    State.station (State.setStory s t x) = s.station := by simp [State.setStory]

@[simp] theorem station_updStory (t : Tag) (f : Story → Story) :
    State.station (State.updStory s t f) = s.station := by
  unfold State.updStory
  split <;> simp

@[simp] theorem station_updDelivery (t : Tag) (n : Circ) (f : Delivery → Delivery) :
    State.station (State.updDelivery s t n f) = s.station := by simp [State.updDelivery]

@[simp] theorem station_setNotice (i : Slot32) (x : Option Notice) :
    State.station (State.setNotice s i x) = s.station := by simp [State.setNotice]

@[simp] theorem station_setWriter (w : Writer) :
    State.station (State.setWriter s w) = s.station := by simp [State.setWriter]

/-! ### Ops -/

@[simp] theorem station_listBytes (off : Nat) (be : BitVec 4) (data : Word32) :
    State.station (State.listBytes s off be data) = s.station := by simp [State.listBytes]

@[simp] theorem station_listZero (o : Nat) :
    State.station (State.listZero s o) = s.station := by simp [State.listZero]

@[simp] theorem station_listStatus (status index : Nat) :
    State.station (State.listStatus s status index) = s.station := by simp [State.listStatus]

@[simp] theorem station_listAck (gen : Byte) (status index : Nat) :
    State.station (State.listAck s gen status index) = s.station := by simp [State.listAck]

@[simp] theorem station_listResult (result : Nat) :
    State.station (State.listResult s result) = s.station := by simp [State.listResult]

@[simp] theorem station_resetSettled :
    State.station (State.resetSettled s) = s.station := by
  unfold State.resetSettled
  split <;> simp

@[simp] theorem station_dropReport (r : Report) :
    State.station (State.dropReport s r) = s.station := by
  unfold State.dropReport
  split <;> simp

@[simp] theorem station_beginReport (r : Report) :
    State.station (State.beginReport s r) = s.station := by
  unfold State.beginReport
  split <;> simp

@[simp] theorem station_post (r : Report) :
    State.station (State.post s r) = s.station := by
  unfold State.post
  (repeat' split) <;> simp

@[simp] theorem station_beginQueued (l : List Report) : (s.beginQueued l).station = s.station := by
  induction l generalizing s with
  | nil => rfl
  | cons r rs ih =>
    unfold State.beginQueued
    split
    · rfl
    · simp [ih]

@[simp] theorem station_pumpReports :
    State.station (State.pumpReports s) = s.station := by simp [State.pumpReports]

@[simp] theorem station_recordVisible (j : RecordJob) :
    State.station (State.recordVisible s j) = s.station := by
  simp only [State.recordVisible]
  split <;> simp

@[simp] theorem station_consumeHead :
    State.station (State.consumeHead s) = s.station := by simp [State.consumeHead]

/-! ### Apply -/

@[simp] theorem station_setMarkWin (f : Feed) (p : PartMark) :
    State.station (State.setMarkWin s f p) = s.station := by simp [State.setMarkWin]

@[simp] theorem station_setMarkRing (p : PartMark) :
    State.station (State.setMarkRing s p) = s.station := by simp [State.setMarkRing]

@[simp] theorem station_setMarkCirc (n : Circ) (p : Bool) :
    State.station (State.setMarkCirc s n p) = s.station := by simp [State.setMarkCirc]

@[simp] theorem station_setWindow (f : Feed) (w : Option Win) :
    State.station (State.setWindow s f w) = s.station := by simp [State.setWindow]

@[simp] theorem station_setRing (w : Option Win) :
    State.station (State.setRing s w) = s.station := by simp [State.setRing]

@[simp] theorem station_retryWin (f : Feed) :
    State.station (State.retryWin s f) = s.station := by
  unfold State.retryWin
  split <;> simp

@[simp] theorem station_retryRing :
    State.station (State.retryRing s) = s.station := by
  unfold State.retryRing
  split <;> simp

@[simp] theorem station_retryAll :
    State.station (State.retryAll s) = s.station := by simp [State.retryAll]

@[simp] theorem station_retryTimes (k : Nat) : (State.retryTimes k s).station = s.station := by
  induction k generalizing s with
  | zero => rfl
  | succ k ih => simp [State.retryTimes, ih]

@[simp] theorem station_reexamine :
    State.station (State.reexamine s) = s.station := by
  unfold State.reexamine
  split <;> simp

@[simp] theorem station_applyCheck :
    State.station (State.applyCheck s) = s.station := by
  unfold State.applyCheck
  split <;> simp

@[simp] theorem station_examineWin (f : Feed) :
    State.station (State.examineWin s f) = s.station := by
  simp only [State.examineWin]
  (repeat' split) <;> simp

@[simp] theorem station_examineRing :
    State.station (State.examineRing s) = s.station := by
  simp only [State.examineRing]
  (repeat' split) <;> simp

@[simp] theorem station_feedBoundary (f : Feed) :
    State.station (State.feedBoundary s f) = s.station := by
  unfold State.feedBoundary
  split <;> simp

@[simp] theorem station_ringBoundary :
    State.station (State.ringBoundary s) = s.station := by
  unfold State.ringBoundary
  split <;> simp

/-! ### StoryTable -/

@[simp] theorem station_warnTest (f : Feed) :
    State.station (State.warnTest s f) = s.station := by
  simp only [State.warnTest]
  (repeat' split) <;> simp

@[simp] theorem station_setAccount (f : Feed) :
    State.station (State.setAccount s f) = s.station := by
  unfold State.setAccount
  split <;> simp

@[simp] theorem station_recompute (f : Feed) :
    State.station (State.recompute s f) = s.station := by
  simp only [State.recompute]
  split <;> simp

@[simp] theorem station_unlink (f : Feed) (t : Tag) :
    State.station (State.unlink s f t) = s.station := by
  simp only [State.unlink]
  split <;> simp

@[simp] theorem station_indexSet (f : Feed) (n : BitVec 16) (t : Tag) :
    State.station (State.indexSet s f n t) = s.station := by simp [State.indexSet]

@[simp] theorem station_indexErase (t : Tag) :
    State.station (State.indexErase s t) = s.station := by simp [State.indexErase]

@[simp] theorem station_historyAdd (h : HistEntry) :
    State.station (State.historyAdd s h) = s.station := by simp [State.historyAdd]

@[simp] theorem station_retireHistory (st : Story) :
    State.station (State.retireHistory s st) = s.station := by
  unfold State.retireHistory
  (repeat' split) <;> simp

@[simp] theorem station_retire (t : Tag) (st : Story) :
    State.station (State.retire s t st) = s.station := by simp [State.retire]

@[simp] theorem station_retireTest (t : Tag) :
    State.station (State.retireTest s t) = s.station := by
  unfold State.retireTest
  (repeat' split) <;> simp

@[simp] theorem station_abandonOnly (t : Tag) (n : Circ) :
    State.station (State.abandonOnly s t n) = s.station := by
  unfold State.abandonOnly
  (repeat' split) <;> simp

@[simp] theorem station_abandon (t : Tag) (n : Circ) :
    State.station (State.abandon s t n) = s.station := by simp [State.abandon]

@[simp] theorem station_releaseRef (i : Slot32) :
    State.station (State.releaseRef s i) = s.station := by
  unfold State.releaseRef
  split <;> simp

@[simp] theorem station_enqueueNew (n : Circ) (i : Item) :
    State.station (State.enqueueNew s n i) = s.station := by simp [State.enqueueNew]

@[simp] theorem station_enqueueBack (n : Circ) (i : Item) :
    State.station (State.enqueueBack s n i) = s.station := by simp [State.enqueueBack]

@[simp] theorem station_dequeue (n : Circ) (i : Item) :
    State.station (State.dequeue s n i) = s.station := by simp [State.dequeue]

@[simp] theorem station_noticeHere (n : Circ) (k : NoticeKind) (x : NoticeSource) :
    State.station (State.noticeHere s n k x) = s.station := by
  unfold State.noticeHere
  split <;> simp

/-! ### Sending -/

@[simp] theorem station_fetchTry (n : Circ) :
    State.station (State.fetchTry s n) = s.station := by
  unfold State.fetchTry
  split <;> simp

@[simp] theorem station_beginSvc (n : Circ) :
    State.station (State.beginSvc s n) = s.station := by simp [State.beginSvc]

@[simp] theorem station_leaveService (n : Circ) :
    State.station (State.leaveService s n) = s.station := by simp [State.leaveService]

@[simp] theorem station_stopNotice (n : Circ) (t : Tag) (st : Story) (stop : StopOrder) :
    State.station (State.stopNotice s n t st stop) = s.station := by
  unfold State.stopNotice
  (repeat' split) <;> simp

@[simp] theorem station_dropPend (n : Circ) :
    State.station (State.dropPend s n) = s.station := by simp [State.dropPend]

@[simp] theorem station_deliveryDone (n : Circ) :
    State.station (State.deliveryDone s n) = s.station := by
  unfold State.deliveryDone
  (repeat' split) <;> simp

@[simp] theorem station_endStop (n : Circ) :
    State.station (State.endStop s n) = s.station := by
  unfold State.endStop
  split <;> simp

@[simp] theorem station_silentStop (n : Circ) :
    State.station (State.silentStop s n) = s.station := by
  have h1 := fun s : State => station_updLu s n (fun l => { l with capture := none }) (fun _ => rfl)
  simp only [State.silentStop]
  (repeat' split)
  · rfl
  · rfl
  · simp [h1]

@[simp] theorem station_stopLineOrEnd (n : Circ) :
    State.station (State.stopLineOrEnd s n) = s.station := by
  unfold State.stopLineOrEnd
  (repeat' split) <;> simp

@[simp] theorem station_stopHere (n : Circ) :
    State.station (State.stopHere s n) = s.station := by
  have h1 := fun s : State =>
    station_updLu s n (fun l => { l with capture := l.capture.map Capture.stopped }) (fun _ => rfl)
  simp only [State.stopHere]
  split <;> simp [h1]

@[simp] theorem station_preemptDone (n : Circ) :
    State.station (State.preemptDone s n) = s.station := by
  simp only [State.preemptDone]
  (repeat' split) <;> simp

@[simp] theorem station_beginLeave (n : Circ) (k : Leave) :
    State.station (State.beginLeave s n k) = s.station := by
  simp only [State.beginLeave]
  split <;> simp

@[simp] theorem station_enterService (n : Circ) (i : Item) (rest : List Item) :
    State.station (State.enterService s n i rest) = s.station := by
  unfold State.enterService
  split <;> simp

@[simp] theorem station_select (n : Circ) :
    State.station (State.select s n) = s.station := by
  unfold State.select
  (repeat' split) <;> simp

@[simp] theorem station_setPoint (n : Circ) :
    State.station (State.setPoint s n) = s.station := by simp [State.setPoint]

@[simp] theorem station_actAtOnce (n : Circ) :
    State.station (State.actAtOnce s n) = s.station := by
  simp only [State.actAtOnce]
  (repeat' split) <;> simp

@[simp] theorem station_setIdle (n : Circ) :
    State.station (State.setIdle s n) = s.station := by
  exact station_updLu s n _ (fun _ => rfl)

@[simp] theorem station_settleLine (n : Circ) :
    State.station (State.settleLine s n) = s.station := by simp [State.settleLine]

@[simp] theorem station_replayCheck (n : Circ) :
    State.station (State.replayCheck s n) = s.station := by
  unfold State.replayCheck
  split <;> simp

@[simp] theorem station_wordTest (n : Circ) :
    State.station (State.wordTest s n) = s.station := by
  unfold State.wordTest
  (repeat' split) <;> simp

@[simp] theorem station_lineTest (n : Circ) (k : NlCause) :
    State.station (State.lineTest s n k) = s.station := by
  unfold State.lineTest
  (repeat' split) <;> simp

@[simp] theorem station_dropCapture (n : Circ) (k : NlCause) :
    State.station (State.dropCapture s n k) = s.station := by
  simp only [State.dropCapture]
  (repeat' split)
  · rfl
  · exact station_updLu s n _ (fun _ => rfl)
  · rfl

@[simp] theorem station_setPhase (n : Circ) (p : Phase) :
    State.station (State.setPhase s n p) = s.station := by simp [State.setPhase]

@[simp] theorem station_enterText (n : Circ) :
    State.station (State.enterText s n) = s.station := by simp [State.enterText]

@[simp] theorem station_lostDone (n : Circ) :
    State.station (State.lostDone s n) = s.station := by simp [State.lostDone]

@[simp] theorem station_noticeSent (n : Circ) :
    State.station (State.noticeSent s n) = s.station := by
  unfold State.noticeSent
  split <;> simp

@[simp] theorem station_headDone (n : Circ) :
    State.station (State.headDone s n) = s.station := by
  unfold State.headDone
  split <;> simp

@[simp] theorem station_svcDone (n : Circ) :
    State.station (State.svcDone s n) = s.station := by
  unfold State.svcDone
  split <;> simp

@[simp] theorem station_openLine (n : Circ) :
    State.station (State.openLine s n) = s.station := by
  unfold State.openLine
  split <;> simp

@[simp] theorem station_nlNext (n : Circ) (k : NlCause) :
    State.station (State.nlNext s n k) = s.station := by
  unfold State.nlNext
  (repeat' split) <;> simp

@[simp] theorem station_lostTest (n : Circ) :
    State.station (State.lostTest s n) = s.station := by
  unfold State.lostTest
  split <;> simp

@[simp] theorem station_wordDone (n : Circ) :
    State.station (State.wordDone s n) = s.station := by
  simp only [State.wordDone]
  split <;> simp

@[simp] theorem station_complete (n : Circ) (m : Mark) :
    State.station (State.complete s n m) = s.station := by
  unfold State.complete
  split <;> simp

@[simp] theorem station_joinSent (n : Circ) (c : SentChar) :
    State.station (State.joinSent s n c) = s.station := by
  unfold State.joinSent
  (repeat' split) <;> simp

@[simp] theorem station_recordChar (n : Circ) (c : SentChar) :
    State.station (State.recordChar s n c) = s.station := by
  unfold State.recordChar
  split <;> simp

@[simp] theorem station_afterRead (n : Circ) (size : Nat) (d : Sender) :
    State.station (State.afterRead s n size d) = s.station := by simp [State.afterRead]

@[simp] theorem station_beginLost (n : Circ) (size : Nat) (u : LUnit) :
    State.station (State.beginLost s n size u) = s.station := by
  simp only [State.beginLost]
  split <;> simp

@[simp] theorem station_storyEnd (n : Circ) (st : Story) :
    State.station (State.storyEnd s n st) = s.station := by
  unfold State.storyEnd
  split <;> simp

@[simp] theorem station_askTurn (n : Circ) :
    State.station (State.askTurn s n).1 = s.station := by
  simp only [State.askTurn]
  (repeat' split) <;> simp

@[simp] theorem station_ask (k : Nat) (n : Circ) : (State.ask k s n).station = s.station := by
  induction k generalizing s with
  | zero => rfl
  | succ k ih =>
    simp only [State.ask]
    (repeat' split) <;> simp [ih]

@[simp] theorem station_holdNewline (n : Circ) :
    State.station (State.holdNewline s n) = s.station := by
  simp only [State.holdNewline]
  split <;> simp

@[simp] theorem station_beginSlot (n : Circ) :
    State.station (State.beginSlot s n) = s.station := by
  have h1 := fun (s : State) (x : Option Slot) =>
    station_updLu s n (fun l => { l with slot := x }) (fun _ => rfl)
  simp only [State.beginSlot]
  split
  · rw [station_fetchTry]
    split
    · simp [h1]
    · split <;> simp [h1]
  · split <;> simp [h1]

end Sys2Proof.Machine
end

