-- ==== Sys2Proof/Tests/Slice0.lean ====
section
/-! SUPPORT. Tests with results taken from the spec's worked examples and tables, and for each statement a concrete
state that meets its hypotheses. -/

namespace Sys2Proof.Tests
open Sys2Proof.Machine

/-! ### Small states -/

/-- A circuit at 50 baud with a 1.5-element stop and a 69-character line (chapter 8). -/
def cfg : CircCfg :=
  { enable := true, stopCode := 1, elem := 1536, width := 69, fill := 2, usos := false, invert := false,
    lead := 4, idleFill := false, idleCode := 45, brkThresh := 10, clrTime := 10, restart := true,
    faultLim := 600, starveLim := 3 }

/-- The part after RESET with feed 0, the report ring and circuit 0 enabled and nothing in progress. -/
def up : State :=
  { State.reset with
    bus := { Bus.start with resetAsserted := false }
    applied := { Applied.start with
      ring := some { base := 0x20000, code := 1 }
      feeds := vset Applied.start.feeds 0
        { win := some { base := 0x10000, code := 1 }, codeA := 0x41, codeB := 0x50, w16 := 12, k16 := 14 }
      circs := vset Applied.start.circs 0 cfg }
    circuits := vset State.reset.circuits 0
      { Circuit.start with lu := { LineUnit.start with state := .stopped } } }

/-- With a transaction at the memory port. -/
def atPort (s : State) (r : Requester) (x : Txn) (o : Bool) : State :=
  { s with bus := { s.bus with port := some { by_ := r, txn := x, orphan := o } } }

/-- With a host transaction at the memory port. -/
def hostAt (x : Txn) : State := atPort up .host x false

/-- With a host request waiting. -/
def withHost (s : State) (x : Txn) : State := { s with bus := { s.bus with hostWaiting := some x } }

def rd (a : Nat) : Txn := readTxn a
def wr (a : Nat) (be : BitVec 4) (d : Word32) : Txn := writeTxn a be d

/-- A write of the control page word at an offset. -/
def pg (off : Nat) (be : BitVec 4) (d : Word32) : Txn := wr (0x03FFF000 + off) be d

/-- Circuit 0's Line Unit changed. -/
def line (f : LineUnit → LineUnit) : State := up.updLu 0 f

/-- Circuit 0 in a state, its sense input reading mark or space. -/
def inState (c : CState) (mark : Bool) : State := line fun l => { l with state := c, sense := mark }

/-- A CLOSED story of feed 0 with a delivery on circuit 0. -/
def story (d : DelState) : Story :=
  { state := .closed, kwo := false, feed := 0, cls := 3, number := some 7, slug := [], openOff := 0,
    textStart := 4, textEnd := 20, takes := 0, route := 1, hdrFault := false, unclosed := false,
    unrouted := false,
    deliveries := vset (Vector.replicate 8 none) 0
      (some { state := d, headSent := false, resumeOff := 4, inDirective := false, chars := 0, subs := 0, lines := 0 }),
    sent := 0, dry := 0 }

def withStory (s : State) (t : Tag) (st : Story) : State :=
  { s.setStory t (some st) with admission := [t], feedLists := vset s.feedLists 0 [t] }

/-! ### Commands and their operands -/

theorem test_illFormed_read_with_data :
    (Instr.hostRequest { write := false, addr := 0, be := 0xF, data := 1 }).wellFormed = false := by decide
theorem test_wellFormed_write_with_data :
    (Instr.hostRequest { write := true, addr := 0, be := 0xF, data := 1 }).wellFormed = true := by decide
/-- No row of the table has bits. -/
theorem test_no_row_has_bits : decodeTableWord 0 0 = none := by decide

/-! ### Results the spec states -/

/-- R130: 1536 ticks with a 1.5-element stop make 11 520. -/
theorem test_charTime_50_baud : cfg.charTime = 11520 := by decide
/-- R130: an odd element time rounds the half element down. -/
theorem test_charTime_odd : ({ cfg with elem := 1691 } : CircCfg).charTime = 12682 := by decide
/-- R138: code 45 is 90 s, code 100 is 10 min, code 210 is 50 min. -/
theorem test_idleTicks : cfg.idleTicks = 6912000 ∧ ({ cfg with idleCode := 100 } : CircCfg).idleTicks = 46080000 ∧
    ({ cfg with idleCode := 210 } : CircCfg).idleTicks = 230400000 := by decide
/-- Section 3.4, "2417 RAIL STRIKE": URGENT, 417, slug of eleven bytes, no fault. -/
theorem test_header_2417 :
    (parseHeader [0x32, 0x34, 0x31, 0x37, 0x20, 0x52, 0x41]) =
      { cls := 2, number := some 417, replaced := none, slug := [0x52, 0x41], fault := false } := by decide
/-- Section 3.4, "1123456 X": a six-digit run is no number, the slug stands, and there is a fault. -/
theorem test_header_six_digits :
    (parseHeader [0x31, 0x31, 0x32, 0x33, 0x34, 0x35, 0x36, 0x20, 0x58]) =
      { cls := 1, number := none, replaced := none, slug := [0x58], fault := true } := by decide
/-- Section 3.4, "3880/879 M" replaces 879, and "4501/ABC" has an empty replaced run, which is a fault. -/
theorem test_header_replaced :
    (parseHeader [0x33, 0x38, 0x38, 0x30, 0x2F, 0x38, 0x37, 0x39, 0x20, 0x4D]).replaced = some 879 ∧
    (parseHeader [0x34, 0x35, 0x30, 0x31, 0x2F, 0x41, 0x42, 0x43]) =
      { cls := 4, number := some 501, replaced := none, slug := [], fault := true } := by decide
/-- R170: Q is code 20, the figure 4 shares code 6 with D, and N13 is code 16. -/
theorem test_codes : tokenOf 0x51 = .print { plane := .ltr, code := 20, subst := false } ∧
    tokenOf 0x34 = .print { plane := .fig, code := 6, subst := false } ∧
    tokenOf 0xCC = .print { plane := .nat, code := 16, subst := false } := by decide

/-- R114: a newline is CR, LF and the carriage fills; with one fill it is three characters. -/
theorem test_newline_length : (placeNewline 1 .hard).length = 3 ∧ placeNewline 0 .hard =
    [{ sym := .cr, mark := .none }, { sym := .lf, mark := .newline .hard }] := by decide
/-- Chapter 7's narrow circuit, step 1: 17 characters at column 0 of width 16 are split after the sixteenth. -/
theorem test_narrow_split (c : PChar) :
    placeWord { cfg with width := 16, fill := 0 } 0 0 false .fold (List.replicate 17 c) =
      (placeChars false (List.replicate 16 c) ++ placeNewline 0 .fold, 16) := by rfl
/-- Chapter 7, text line 1: FROM would reach 28 + 1 + 4 on a width of 32, so a newline comes first. -/
theorem test_fold (a b c d : PChar) :
    placeWord { cfg with width := 32, fill := 1 } 28 1 true .fold [a, b, c, d] = (placeNewline 1 .fold, 0) := by rfl

/-- Section 1.4's grants 9 and 18: from the pointer at the Control Mirror fetcher 3 comes before the Report Writer, and
from fetcher 3 the Report Writer comes first. -/
theorem test_grant_order :
    (orderAfter .mirror).find? (fun i => i == .fetcher 3 || i == .writer) = some (.fetcher 3) ∧
    (orderAfter (.fetcher 3)).find? (fun i => i == .fetcher 3 || i == .writer) = some .writer := by decide

/-- The state a command leads to, or the state itself if the command stopped. -/
def after (i : Instr) (s : State) : State :=
  match exec i s with
  | .next t => t
  | _ => s

/-- R10: with the port free and the streak 0 the host request is granted at once, alone, and the streak stays 0. -/
theorem test_hostRequest_granted :
    ((after (.hostRequest (rd 4)) up).bus.port.map Flight.by_, (after (.hostRequest (rd 4)) up).bus.streak)
      = (some .host, 0) := by decide
/-- R13: with LOAD high the page load places its first read at the control page base. -/
theorem test_release_load :
    (after (.resetRelease 1 true) State.reset).bus.port =
      some { by_ := .mirror .load, txn := rd 0x07FFF000, orphan := false } := by decide
/-- R40: an OPEN taken at the cursor begins a header; the cursor stands behind the two bytes of the write. -/
theorem test_feedWrite_open :
    ((after .hostFeedWrite (hostAt (wr 0x10000 3 0x3201))).ctx 0).parse = .header 0 1 [0x32] ∧
    ((after .hostFeedWrite (hostAt (wr 0x10000 3 0x3201))).ctx 0).cursor = 2 := by decide
/-- R139: HOLD of a STOPPED circuit sets hold pending, and the request byte's write-back takes the port. -/
theorem test_hold_stopped :
    ((after (.hold 0) (hostAt (pg 0x0C 1 1))).circ 0).lu.hold = true ∧
    (after (.hold 0) (hostAt (pg 0x0C 1 1))).bus.port =
      some { by_ := .mirror .list, txn := pg 0x0C 1 0, orphan := false } := by decide
/-- R148: a break found in HELD enters BROKEN in the same event. -/
theorem test_break_in_held :
    ((after (.breakDetected 0) (inState .held false)).circ 0).lu.state = .broken := by decide

/-! ### Each statement's hypotheses are met -/

theorem up_sound : up.Sound where
  passage := by decide
  held := by decide
  streak := by decide
  reset := by intro h; exact absurd h (by decide)
  mem := by decide
  staging := by decide
  lawful :=
    { writer :=
        { queue := by decide, lost := by decide, flags := by decide, attn := by decide
          fits := by intro v h; cases h; decide
          head := by intro v h; cases h; decide
          tail := by intro v h; cases h; decide }
      placed := { aligned := by decide, apart := by decide, page := by decide } }

theorem witness_TimebaseAndSense : up.pending = [] ∧ (up.circ 0).lu.sense = true ∧ (up.circ 0).lu.sense ≠ false := by
  decide

theorem witness_OnlyThePortWritesMemory :
    Memory.wf (hostAt (wr 0x30000 0xF 5)).mem = true ∧
    (∃ t, exec .hostTransactionComplete (hostAt (wr 0x30000 0xF 5)) = .next t) ∧
    ∀ p, (hostAt (wr 0x30000 0xF 5)).bus.port = some p → p.txn.write = true →
      ∀ i < 4, p.txn.be.getLsbD i = true → 0x30004 ≠ Txn.word p.txn + i := by
  refine ⟨by decide, ⟨_, rfl⟩, ?_⟩
  intro p hp
  cases hp
  decide

theorem witness_OnlyPageTrafficStages :
    Memory.wf up.mirror.staging = true ∧ (∃ t, exec (.slotComplete 0) up = .next t) ∧
    Instr.slotComplete 0 ≠ .powerOnReset ∧ (∀ x off, ¬ up.PageWriteAt x off) ∧
    ∀ p, up.bus.port = some p → p.by_ ≠ .mirror .load := by
  refine ⟨by decide, ⟨_, rfl⟩, by decide, fun x off h => ?_, fun p h => ?_⟩
  · exact absurd h.port (by simp [State.hostTxn, up, Bus.start])
  · cases h

theorem witness_ResetMidWrite : Memory.wf (hostAt (wr 0x30000 0xF 5)).mem = true ∧
    ∃ t, exec .powerOnReset (hostAt (wr 0x30000 0xF 5)) = .next t := ⟨by decide, _, rfl⟩

theorem witness_ReleaseLatchesStraps :
    up.bus.resetAsserted = false ∧ (withHost State.reset (rd 4)).bus.resetAsserted = true ∧
    (withHost State.reset (rd 4)).bus.hostWaiting = some (rd 4) ∧ (withHost State.reset (rd 4)).bus.port = none ∧
    (withHost State.reset (rd 4)).bus.streak = 0 ∧ (withHost State.reset (rd 4)).mirror.writeList = [] ∧
    (withHost State.reset (rd 4)).mirror.req = none ∧
    (State.reset.bus.resetAsserted = true ∧ State.reset.bus.hostWaiting = none ∧ State.reset.bus.hostHeld = none ∧
      State.reset.writer.rec_ = none ∧ ∀ n, (State.reset.circ n).ftc.fetch = none) := by decide
/-- R32: with LOAD low the start-up acknowledgement is the first word at the port, at the page's own base. -/
theorem test_release_ack : (after (.resetRelease 0 false) State.reset).bus.port =
    some { by_ := .mirror .list, txn := wr 0x03FFF000 0xE 0xFF000000, orphan := false } := by decide

theorem witness_HostRequestIsAccepted :
    (withHost up (rd 4)).bus.hostWaiting ≠ none ∧
    { hostAt (rd 4) with bus := { (hostAt (rd 4)).bus with hostHeld := some (rd 8) } }.bus.hostHeld ≠ none ∧
    (up.bus.hostWaiting = none ∧ up.bus.hostHeld = none ∧ up.bus.resetAsserted = false ∧ up.bus.port = none ∧
      up.bus.streak < 8) ∧
    ((atPort up .writer (rd 4) false).bus.hostWaiting = none ∧ (atPort up .writer (rd 4) false).hostTxn = none ∧
      (atPort up .writer (rd 4) false).bus.port.isSome = true) ∧
    (State.reset.bus.hostWaiting = none ∧ State.reset.bus.hostHeld = none ∧ State.reset.hostTxn = none ∧
      State.reset.bus.resetAsserted = true) ∧
    ((hostAt (rd 4)).bus.hostWaiting = none ∧ (hostAt (rd 4)).bus.hostHeld = none ∧
      (hostAt (rd 4)).hostTxn = some (rd 4)) := by decide

theorem witness_FaultedHostRead : (hostAt (rd 4)).hostTxn = some (rd 4) ∧ (rd 4).write = false := by decide

/-- A state in which the Report Writer waits for the port. -/
def writing : State :=
  up.setWriter { up.writer with
    rec_ := some { slot := 0, words := [1, 2, 3, 4], flag := true, done := 0, isReset := false } }

/-- Fetcher 7 waits for the port. -/
def fetching : State :=
  up.updFtc 7 fun x => { x with fetch := some (Fetch.mk 0 0 16 0x10000 [] false .keep) }

/-- The Control Mirror has placed a request of a kind. -/
def placed (w : MirrorWork) : State :=
  { up with mirror := { up.mirror with
      req := some w, writeList := [{ off := 4, be := 1, data := 0 }]
      snap := some { words := [1, 2], next := 0, waiting := false }, load := some { next := 0, nonzero := [] } } }

theorem witness_ArbiterFollowsTheStreak :
    (up.bus.resetAsserted = false ∧ up.bus.port = none ∧ up.bus.hostWaiting = none ∧
      (∀ n, up.waits (.fetcher n) = false) ∧ up.waits .writer = false ∧ up.waits .mirror = false) ∧
    ((withHost up (rd 4)).bus.hostWaiting = some (rd 4)) ∧
    ((withHost writing (rd 4)).waits .writer = true ∧ (withHost writing (rd 4)).bus.streak < 8) ∧
    (writing.waits .writer = true ∧ writing.bus.hostWaiting = none ∧ writing.grant.bus.rr = .writer ∧
      writing.writer.rec_.isSome = true ∧ writing.applied.ring.isSome = true) ∧
    (fetching.waits (.fetcher 7) = true ∧ fetching.grant.bus.rr = .fetcher 7 ∧
      (fetching.circ 7).ftc.fetch.isSome = true) ∧
    (∀ w ∈ [MirrorWork.list, .snap, .load], (placed w).waits .mirror = true ∧ (placed w).grant.bus.rr = .mirror ∧
      (placed w).mirror.req = some w ∧ (placed w).mirror.writeList = [{ off := 4, be := 1, data := 0 }] ∧
      (placed w).mirror.snap.isSome = true ∧ (placed w).mirror.load.isSome = true) := by decide

theorem witness_ClassesFollowRegions :
    up.Placed ∧ (up.page ≤ 0x03FFFFFF ∧ 0x03FFFFFF < up.page + pageSize) ∧
    ((up.fcfg 0).win = some { base := 0x10000, code := 1 } ∧ 0x13FFF < 0x10000 + feedSize 1) ∧
    (up.applied.ring = some { base := 0x20000, code := 1 } ∧ 0x200FF < 0x20000 + 16 * ringSlots 1) ∧
    ¬(up.page ≤ 0x20100 ∧ 0x20100 < up.page + pageSize) := by
  refine ⟨up_sound.lawful.placed, ?_⟩
  decide

theorem witness_PlainTransactionCompletes :
    ((hostAt (wr 0x30000 0 5)).hostTxn = some (wr 0x30000 0 5)) ∧
    ((hostAt (wr 0x30000 0xF 5)).classify (Txn.word (wr 0x30000 0xF 5)) = .other) ∧
    ((hostAt (wr 0x20000 0xF 5)).classify (Txn.word (wr 0x20000 0xF 5)) = .report 0 0) ∧
    ((hostAt (rd 0x10000)).classify (Txn.word (rd 0x10000)) = .feed 0 0) ∧
    ((hostAt (rd 0x20000)).classify (Txn.word (rd 0x20000)) = .report 0 0 ∧
      (hostAt (rd 0x20000)).writer.count = 0) := by decide

theorem pageWriteAt (off : Nat) (be : BitVec 4) (d : Word32) (hb : be ≠ 0)
    (hw : Txn.word (pg off be d) = up.page + off) (ho : off < pageSize) :
    (hostAt (pg off be d)).PageWriteAt (pg off be d) off :=
  ⟨rfl, rfl, hb, hw, ho, rfl⟩

theorem witness_PageWriteStages : (hostAt (pg 0xFFC 0xF 5)).PageWriteAt (pg 0xFFC 0xF 5) 0xFFC :=
  pageWriteAt _ _ _ (by decide) (by decide) (by decide)

theorem witness_StagedBytesWait :
    (hostAt (pg 0x14 1 1)).PageWriteAt (pg 0x14 1 1) 0x14 ∧ (hostAt (pg 0 0xF 0)).PageWriteAt (pg 0 0xF 0) 0 ∧
    staged8 (memWriteLanes (hostAt (pg 0 0xF 0)).mirror.staging 0 (pg 0 0xF 0).data (lanesOf 0xF)) 0 =
      (hostAt (pg 0 0xF 0)).mirror.genSeen :=
  ⟨pageWriteAt _ _ _ (by decide) (by decide) (by decide), pageWriteAt _ _ _ (by decide) (by decide) (by decide),
    by decide⟩

/-- Feed 0 staged at the control page's own base, with the size code 1. -/
def clashing : State := up.withStaging [(0x41, 0xF0), (0x42, 0xFF), (0x43, 3), (0x44, 1)]

theorem witness_GenerationIsJudged :
    (hostAt (pg 0 1 9)).PageWriteAt (pg 0 1 9) 0 ∧ (pg 0 1 9).be.getLsbD 0 = true ∧
    wordByte (pg 0 1 9).data 0 ≠ (hostAt (pg 0 1 9)).mirror.genSeen ∧ (hostAt (pg 0 1 9)).mirror.load = none ∧
    (up.withStaging (memWriteLanes up.mirror.staging 0 9 (lanesOf 1))).refusedEntry = none ∧
    (clashing.withStaging (memWriteLanes clashing.mirror.staging 0 9 (lanesOf 1))).refusedEntry = some 0 ∧
    Memory.wf clashing.mirror.staging = true :=
  ⟨pageWriteAt _ _ _ (by decide) (by decide) (by decide), by decide⟩

theorem witness_ValidationNamesTheLowest : clashing.refusedEntry = some 0 := by decide

/-- The part with its report ring disabled. -/
def noRing : State := { up with applied := { up.applied with ring := none } }

/-- An apply pending, circuit 0's part waiting. -/
def applying : State :=
  { up with mirror := { up.mirror with applyPending := true, pendCirc := vset up.mirror.pendCirc 0 true } }

theorem witness_SoftResetEmpties :
    (hostAt (pg 4 1 1)).PageWriteAt (pg 4 1 1) 4 ∧ (pg 4 1 1).be.getLsbD 0 = true ∧
    wordByte (pg 4 1 1).data 0 = 1 ∧ (hostAt (pg 4 1 1)).mirror.applyPending = false ∧
    (hostAt (pg 4 1 1)).applied.ring = some { base := 0x20000, code := 1 } ∧
    (atPort noRing .host (pg 4 1 1) false).PageWriteAt (pg 4 1 1) 4 ∧
    (atPort noRing .host (pg 4 1 1) false).mirror.applyPending = false ∧
    (atPort noRing .host (pg 4 1 1) false).applied.ring = none ∧
    (atPort applying .host (pg 4 1 1) false).PageWriteAt (pg 4 1 1) 4 ∧
    (atPort applying .host (pg 4 1 1) false).mirror.applyPending = true := by
  refine ⟨pageWriteAt _ _ _ (by decide) (by decide) (by decide), by decide, by decide, by decide, by decide,
    ⟨by decide, by decide, by decide, by decide, by decide, by decide⟩, by decide, by decide,
    ⟨by decide, by decide, by decide, by decide, by decide, by decide⟩, by decide⟩

/-- The four requests, to circuit 0, to circuit 7 and to circuits 4 to 7 in one write. -/
theorem witness_CircuitRequestsAct :
    (hostAt (pg 0x0C 1 1)).PageWriteAt (pg 0x0C 1 1) ((0x0C + (0 : Circ).1) / 4 * 4) ∧
    (hostAt (pg 0x10 8 0x02000000)).PageWriteAt (pg 0x10 8 0x02000000) ((0x0C + (7 : Circ).1) / 4 * 4) ∧
    (8#4 = 1#4 <<< ((0x0C + (7 : Circ).1) % 4)) ∧ wordByte 0x02000000 ((0x0C + (7 : Circ).1) % 4) = 2 ∧
    wordByte 0x03000000 ((0x0C + (7 : Circ).1) % 4) = 3 ∧ wordByte 0x04000000 ((0x0C + (7 : Circ).1) % 4) = 4 ∧
    wordByte 1 ((0x0C + (0 : Circ).1) % 4) = 1 ∧
    (hostAt (pg 0x10 0xF 0x02030401)).PageWriteAt (pg 0x10 0xF 0x02030401) ((0x0C + (4 : Circ).1) / 4 * 4) ∧
    ((0xF : BitVec 4).getLsbD ((0x0C + (4 : Circ).1) % 4) = true ∧
      wordByte 0x02030401 ((0x0C + (4 : Circ).1) % 4) = 1 ∧ wordByte 0x02030401 ((0x0C + (5 : Circ).1) % 4) = 4 ∧
      wordByte 0x02030401 ((0x0C + (6 : Circ).1) % 4) = 3 ∧ wordByte 0x02030401 ((0x0C + (7 : Circ).1) % 4) = 2) :=
  ⟨pageWriteAt _ _ _ (by decide) (by decide) (by decide), pageWriteAt _ _ _ (by decide) (by decide) (by decide),
    by decide, by decide, by decide, by decide, by decide,
    pageWriteAt _ _ _ (by decide) (by decide) (by decide), by decide⟩

theorem witness_StoryRequestsAct :
    (hostAt (pg 8 7 0x1)).PageWriteAt (pg 8 7 0x1) 8 ∧ (hostAt (pg 8 7 0x2)).PageWriteAt (pg 8 7 0x2) 8 ∧
    (hostAt (pg 8 7 0x3)).PageWriteAt (pg 8 7 0x3) 8 ∧
    (wordByte (0x1 : Word32) 0 = 1 ∧ wordByte (0x2 : Word32) 0 = 2 ∧ wordByte (0x3 : Word32) 0 = 3) ∧
    (((hostAt (pg 8 7 0x1)).landed (pg 8 7 0x1)).stageWrite 8 7 0x1).requestTag = none ∧
    (((hostAt (pg 8 7 0x2)).landed (pg 8 7 0x2)).stageWrite 8 7 0x2).requestTag = none :=
  ⟨pageWriteAt _ _ _ (by decide) (by decide) (by decide), pageWriteAt _ _ _ (by decide) (by decide) (by decide),
    pageWriteAt _ _ _ (by decide) (by decide) (by decide), by decide⟩

/-- Story 95 live, staged as the tag of a request with a class. -/
def requesting (c : Byte) : State := (withStory up 95 (story .done)).withStaging [(9, 95), (10, c)]

theorem witness_StoryRequestsAct_tag :
    (∀ c, (requesting c).story 95 = some (story .done) ∧ (requesting c).requestTag = some 95) ∧
    (up.withStaging [(9, 95)]).requestTag = none ∧ ((withStory up 95 (story .done)).withStaging [(9, 96)]).requestTag = none ∧
    4 < (memRead (requesting 5).mirror.staging 10).toNat ∧
    (memRead (requesting 4).mirror.staging 10).toNat = (4 : StoryClass).1 :=
  ⟨fun _ => ⟨rfl, rfl⟩, by decide⟩

/-- The part with a snapshot in writing. -/
def snapping : State := { up with mirror := { up.mirror with snap := some { words := [], next := 0, waiting := false } } }

theorem witness_SnapshotIsCaptured :
    (hostAt (pg 8 1 3)).PageWriteAt (pg 8 1 3) 8 ∧ wordByte (pg 8 1 3).data 0 = 3 ∧
    (hostAt (pg 8 1 3)).mirror.snap = none ∧
    (atPort snapping .host (pg 8 1 3) false).PageWriteAt (pg 8 1 3) 8 ∧
    (atPort snapping .host (pg 8 1 3) false).mirror.snap = some { words := [], next := 0, waiting := false } := by
  refine ⟨pageWriteAt _ _ _ (by decide) (by decide) (by decide), by decide, by decide,
    ⟨by decide, by decide, by decide, by decide, by decide, by decide⟩, by decide⟩

/-- Story 1 and a notice queued on circuit 0; the story is still OPEN, so it stays when it is abandoned there. -/
def queued : State :=
  (withStory up 1 { story .waiting with state := .open_ }).updSch 0 fun c => { c with queue := [.notice 0, .story 1] }

/-- Circuit 0 serves story 5 with a notice queued. -/
def serving (q : List Item) (stop : StopOrder) : State :=
  (withStory up 5 (story .inService)).updSch 0 fun c => { c with item := some (.story 5), queue := q, stop := stop }

/-- HOLD finds a circuit in each of the seven states, and CLEAR a story and a notice queued, and a story or nothing in
service. -/
theorem witness_HoldAndClear :
    (inState .off true |>.circ 0).lu.state = .off ∧ (inState .held true |>.circ 0).lu.state = .held ∧
    (inState .stopped true |>.circ 0).lu.state = .stopped ∧ (inState .fault true |>.circ 0).lu.state = .fault ∧
    (inState .lead true |>.circ 0).lu.state = .lead ∧ (inState .running true |>.circ 0).lu.state = .running ∧
    (inState .broken true |>.circ 0).lu.state = .broken ∧ (1 : Circ) ≠ 0 ∧
    Item.story 1 ∈ (queued.circ 0).sch.queue ∧ ((queued.emptyQueue 0).story 1).isSome = true ∧
    ((queued.emptyQueue 0).story 1).any (fun st => (st.delivery 0).isSome) = true ∧
    (queued.story 1).any (fun st => (st.delivery 0).isSome) = true ∧
    (queued.circ 0).sch.queue.Nodup ∧ Item.notice 0 ∈ (queued.circ 0).sch.queue ∧
    ((serving [] .none).circ 0).sch.item = some (.story 5) ∧ ((serving [] .none).circ 0).sch.stop = .none ∧
    ((serving [] (.kill .kill)).circ 0).sch.stop ≠ .none ∧ (queued.circ 0).sch.item = none := by decide

/-- A capture record of a break found in a state, with or without a hold taken. -/
def captured (c : CState) (held : Bool) : Capture :=
  { from_ := c, item := none, origin := .none, nextUnsent := 0, column := 0, lineCount := 0, holdTaken := held,
    restartDue := false, drop := .keep }

/-- Circuit 0 BROKEN, its input reading mark. -/
def broken (c : CState) (held : Bool) : State :=
  line fun l => { l with state := .broken, motor := true, sense := true, capture := some (captured c held) }

theorem witness_ReleaseByState :
    ((inState .held true).circ 0).lu.state = .held ∧
    (((line fun l => { l with state := .lead, hold := true }).circ 0).lu.state = .lead ∧
      ((line fun l => { l with state := .lead, hold := true }).circ 0).lu.hold = true) ∧
    (((line fun l => { l with state := .running, hold := true }).circ 0).lu.state = .running ∧
      ((line fun l => { l with state := .running, hold := true }).circ 0).lu.hold = true) ∧
    (((broken .held true).circ 0).lu.state = .broken ∧
      (((broken .held true).releaseReq 0).circ 0).lu.capture = some (captured .running false)) ∧
    ((up.circ 0).lu.state ≠ .held ∧ (up.circ 0).lu.state ≠ .broken ∧ (up.circ 0).lu.hold = false) ∧
    ((up.circ 0).lu.state = .stopped ∧ (up.circ 0).sch.queue = []) ∧
    ((inState .fault true).circ 0).lu.state = .fault ∧ ((inState .off true).circ 0).lu.state = .off := by decide

theorem witness_WithdrawnStories :
    (withStory up 5 (story .done)).story 5 = some (story .done) ∧
    (withStory up 5 { story .done with state := .killed }).story 5 = some { story .done with state := .killed } ∧
    (withStory up 5 { story .done with state := .cut }).story 5 = some { story .done with state := .cut } ∧
    (4 : StoryClass) ≠ (story .done).cls ∧ KillSource.directive ≠ .overrun ∧ KillSource.ring ≠ .overrun ∧
    ((story .done).state = .closed ∧ ({ story .waiting with state := .open_ } : Story).state = .open_) ∧
    ((up.fcfg 0).win ≠ none ∧ (1 : Feed) ≠ (story .done).feed ∧ (6 : Tag) ≠ 5) ∧
    ((story .waiting).delivery 1 = none ∧
      ∀ d, ((story d).delivery 0).map Delivery.state = some d) := by
  refine ⟨by decide, by decide, by decide, by decide, by decide, by decide, by decide, by decide, by decide, ?_⟩
  intro d
  cases d <;> decide
/-- R107: RECLASS of a queued DEFERRED story to BULLETIN places it behind a BULLETIN-rank notice, ahead of a ROUTINE
story. -/
theorem test_reclass_moves :
    let s := ((withStory up 5 { story .waiting with cls := 4 }).setStory 6 (some (story .waiting))).updSch 0 fun c =>
      { c with queue := [.notice 0, .story 6, .story 5] }
    ((State.reclassOn 5 (s.setStory 5 (some { story .waiting with cls := 1 })) 0).circ 0).sch.queue =
      [.notice 0, .story 5, .story 6] := by decide

/-- R172: byte 2 of circuit record 0 names the story in service, and story 5's summary begins with its tag and state. -/
theorem witness_SnapshotIsCaptured_words :
    ((serving [] .none).story 5 = some (story .inService) ∧ (serving [] .none).story 6 = none ∧
      ((serving [] .none).circ 0).lu.capture = none ∧
      ((broken .running false).circ 0).lu.capture = some (captured .running false) ∧
      (story .inService).number = some 7 ∧ ({ story .inService with number := none } : Story).number = none ∧
      ((story .inService).delivery 0).isSome = true ∧ (story .inService).delivery 7 = none) ∧
    (wordsOf ((serving [] .none).circ 0).record).getD 0 0 = 0x00050001 ∧
    (wordsOf (summaryOf 5 (some (story .inService)))).getD 0 0 = 0x00030205 := by decide

theorem witness_StrayWriteIsCounted :
    (hostAt (wr 0x13FFC 0xF 5)).FeedWriteAt (wr 0x13FFC 0xF 5) 0 0x3FFC ∧
    (hostAt (wr 0x13FFC 0xF 5)).isTaken 0 0x3FFC 0xF = false ∧
    ((hostAt (wr 0x13FFC 0xF 5)).ctx 0).strayArmed = true ∧
    ((up.setCtx 0 { FeedCtx.start with strayArmed := false }).ctx 0).strayArmed = false ∧ (1 : Feed) ≠ 0 :=
  ⟨⟨by decide, by decide, by decide, by decide⟩, by decide⟩

/-- Feed 0 with an occupancy and a warn state; its levels are 12 288 and 10 240. -/
def occupied (n : Nat) (w : Bool) : State := up.setAcct 0 { up.acct 0 with occ := n, warn := w }

/-- Feed 0 full, a story at the head of its list. -/
def full (st : Story) : State :=
  withStory (occupied 16384 false) 5 st

/-- Feed 0's intake has story 5 open in TEXT. -/
def parsing : State :=
  (withStory up 5 { story .waiting with state := .open_ }).setCtx 0 { FeedCtx.start with cursor := 24, parse := .text 5 }

theorem witness_TakenWriteIsParsed :
    (hostAt (wr 0x10000 0xF 1)).FeedWriteAt (wr 0x10000 0xF 1) 0 0 ∧
    (hostAt (wr 0x10000 0xF 1)).isTaken 0 0 0xF = true ∧
    ((occupied 16380 false).acct 0).occ + 4 ≤ up.fsize 0 ∧
    (up.fsize 0 < ((full (story .done)).acct 0).occ + 4 ∧ (full (story .done)).flist 0 = [5]) ∧
    ((up.ctx 0).parse.openTag ≠ some 5 ∧ (parsing.ctx 0).parse.openTag = some 5) ∧
    ((up.fcfg 1).win = none ∧ (up.fcfg 0).win ≠ none) ∧
    ((up.ctx 0).parse.growing = none ∧ (parsing.ctx 0).parse.growing = some 5 ∧ (parsing.story 5).isSome = true) ∧
    ((∀ l, up.spikeLevel 0 = some l → (up.acct 0).occ ≤ l) ∧ up.spikeLevel 0 = some 14336 ∧
      14336 < ((full (story .done)).acct 0).occ ∧ (full (story .done)).story 5 = some (story .done)) ∧
    ((story .done).state = .closed ∧ 3 ≤ (story .done).cls.1 ∧ ({ story .done with cls := 2 } : Story).cls.1 < 3 ∧
      ({ story .done with state := .cut } : Story).state = .cut) := by
  refine ⟨⟨by decide, by decide, by decide, by decide⟩, by decide, by decide, by decide, by decide, by decide,
    by decide, ⟨?_, by decide, by decide, by decide⟩, by decide⟩
  intro l h
  have : up.spikeLevel 0 = some 14336 := by decide
  rw [this] at h
  cases h
  decide

/-- R46, R62: a CLOSE byte in TEXT closes the story at its own offset and enters BETWEEN behind it. -/
theorem test_close_in_text : ((parsing.parseByte 0 3).ctx 0).parse = .between ∧ ((parsing.parseByte 0 3).ctx 0).cursor = 25 ∧
    ((parsing.parseByte 0 3).story 5).map (fun st => (st.state, st.textEnd)) = some (.closed, 24) := by decide

theorem witness_BytesBetweenStories : (up.ctx 0).parse = .between ∧ (up.ctx 0).looseArmed = true ∧
    ((up.setCtx 0 { FeedCtx.start with looseArmed := false }).ctx 0).looseArmed = false ∧ (0x20 : Nat) ≤ (0x20 : Byte).toNat ∧
    ((0x1F : Byte).toNat < 0x20 ∧ (0x1F : Byte) ≠ 0x01 ∧ (0x1F : Byte) ≠ 0x02 ∧ (0x1F : Byte) ≠ 0x03 ∧
      (0x1F : Byte) ≠ 0x04 ∧ (0x1F : Byte) ≠ 0x0A ∧ (0x1F : Byte) ≠ 0x18) := by decide

theorem witness_HeaderClassAndNumber :
    (∀ d ∈ ([0x36, 0x35, 0x35, 0x33, 0x35] : List Byte), isDigit d = true) ∧
    ∀ b r, ([0x20, 0x58] : List Byte) = b :: r → isDigit b = false :=
  ⟨by decide, fun b r h => by cases h; decide⟩

theorem witness_HeaderReplacedAndSlug :
    ((0x58 : Byte) ≠ 0x20 ∧ (0x58 : Byte) ≠ 0x2F) ∧ (∀ d ∈ ([0x39] : List Byte), isDigit d = true) ∧
    ∀ b r, ([0x20, 0x58] : List Byte) = b :: r → isDigit b = false :=
  ⟨by decide, by decide, fun b r h => by cases h; decide⟩

theorem witness_RetirementTest :
    ((withStory up 5 (story .waiting)).story 5 = some (story .waiting) ∧
      (story .waiting).activeOn 0 = true) ∧
    ((withStory up 5 (story .done)).story 5 = some (story .done) ∧ (story .done).openAtIntake = false ∧
      ∀ n, (story .done).activeOn n = false) ∧
    ((story .done).number = some 7 ∧ (story .done).sent = 0 ∧ ({ story .done with sent := 1 } : Story).sent ≠ 0 ∧
      (up.fcfg 0).win ≠ none ∧ (1 : Feed) ≠ (story .done).feed) := by decide

/-- The part with every entry of the story table taken by a story. -/
def crowded (st : Story) : State :=
  { up with stories := Vector.replicate 96 (some st), admission := [3, 5] }

/-- An admission request for feed 0, its header numbered 7 and replacing 8. -/
def request : Admission :=
  { feed := 0, hdr := { cls := 3, number := some 7, replaced := some 8, slug := [], fault := false }, openOff := 0,
    textStart := 4, stray := 0 }

/-- Story 5 indexed as number 7 of feed 0. -/
def indexed (x : StoryState) : State :=
  { withStory up 5 { story .done with state := x } with index := [{ feed := 0, number := 7, tag := 5 }] }

theorem witness_AdmissionFillsAnEntry :
    (up.story 0 = none ∧ ∀ u : Tag, u < 0 → up.story u ≠ none) ∧
    ((∀ t, (crowded (story .waiting)).story t ≠ none) ∧ (crowded (story .waiting)).admission = [] ++ 3 :: [5] ∧
      (crowded (story .waiting)).story 3 = some (story .waiting) ∧ (story .waiting).state = .closed ∧
      3 ≤ (story .waiting).cls.1 ∧ (story .waiting).sent = 0 ∧
      ∀ n d, (story .waiting).delivery n = some d → d.state ≠ .inService) ∧
    ((∀ t, (crowded { story .waiting with state := .open_ }).story t ≠ none) ∧
      ({ story .waiting with state := .open_ } : Story).state ≠ .closed) ∧
    (request.hdr.replaced = some 8 ∧ ({ request.hdr with replaced := none } : Header).replaced = none ∧
      (up.killNumber .supersede 0 8).2 = false ∧ ((indexed .open_).killNumber .supersede 0 7).2 = true) ∧
    (request.hdr.number = some 7 ∧ (∀ x, (indexed x).indexFind 0 7 = some 5 ∧ ((indexed x).story 5).isSome = true) ∧
      up.indexFind 0 7 = none) := by
  refine ⟨by decide, ⟨?_, rfl, ?_, by decide, by decide, by decide, ?_⟩, ⟨?_, by decide⟩, by decide,
    ⟨rfl, ?_, by decide⟩⟩
  · intro t; simp [crowded, State.story, vget]
  · simp [crowded, State.story, vget]
  · intro n d h
    have key : ∀ m : Circ, ((story .waiting).delivery m).all (fun x => x.state != .inService) = true := by decide
    have := key n
    rw [h] at this
    simpa using this
  · intro t; simp [crowded, State.story, vget]
  · intro x
    cases x <;> decide

/-- A kill history with number 7 of feed 0 behind another entry. -/
def past : State :=
  { up with history := [{ feed := 1, number := 7, slug := [], cls := 3, circs := 1 },
                        { feed := 0, number := 7, slug := [], cls := 3, circs := 1 }] }

/-- The part with the notice pool full. -/
def pooled : State :=
  { up with pool := Vector.replicate 32 (some (Notice.mk .kill 0x41 0x50 (some 7) [] 2)) }

theorem witness_NumbersAndNotices :
    (indexed .closed).indexFind 0 7 = some 5 ∧
    (past.indexFind 0 7 = none ∧ past.indexFind 0 8 = none ∧ ∀ h ∈ past.history, ¬(h.feed = 0 ∧ h.number = 8)) ∧
    (past.history = [{ feed := 1, number := 7, slug := [], cls := 3, circs := 1 }]
      ++ { feed := 0, number := 7, slug := [], cls := 3, circs := 1 } :: [] ∧
      ∀ x ∈ ([{ feed := 1, number := 7, slug := [], cls := 3, circs := 1 }] : List HistEntry),
        ¬(x.feed = 0 ∧ x.number = 7)) ∧
    ((story .done).number = some 7 ∧ (story .done).sent = 0 ∧ ({ story .done with sent := 128 } : Story).sent ≠ 0) ∧
    ([0, 7] : List Circ) ≠ [] ∧ (up.notice 0 = none ∧ ∀ j : Slot32, j < 0 → up.notice j ≠ none) ∧
    (∀ i, pooled.notice i ≠ none) ∧ (pooled.notice 31).isSome = true := by decide

theorem witness_AccountFollowsTheHead :
    (0 < up.fsize 0 ∧ (up.ctx 0).cursor < up.fsize 0 ∧ up.flist 0 = []) ∧
    ((withStory up 5 (story .done)).flist 0 = [5] ∧ (withStory up 5 (story .done)).story 5 = some (story .done) ∧
      (story .done).openOff < up.fsize 0) := by decide

theorem witness_WarningHysteresis :
    (((occupied 12287 false).acct 0).occ < (occupied 12287 false).warnLevel 0) ∧
    ((occupied 12288 false).warnLevel 0 ≤ ((occupied 12288 false).acct 0).occ) ∧
    ((occupied 10241 true).lowLevel 0 < ((occupied 10241 true).acct 0).occ) ∧
    (((occupied 10240 true).acct 0).occ ≤ (occupied 10240 true).lowLevel 0) ∧
    ((occupied 10240 true).acct 0).warn = true ∧ ((occupied 12288 false).acct 0).warn = false := by decide

/-- W16 12 and K16 14 on a 16 KiB window: the spike level is 14 336. -/
theorem witness_LevelsAreOrdered :
    (stagedLevels [(0x47, 12), (0x48, 14)] 0).w16 = (up.fcfg 0).w16 ∧
    (stagedLevels [(0x47, 12), (0x48, 14)] 0).k16 = (up.fcfg 0).k16 ∧
    (up.fcfg 0).win = some { base := 0x10000, code := 1 } ∧ up.spikeLevel 0 = some 14336 := by decide

theorem witness_QueuePlaces : (withStory up 5 (story .waiting)).Ranked [.notice 0, .story 5] := by
  simp only [State.Ranked]; decide

theorem witness_PreemptionPoint :
    ((serving [] .clear).circ 0).sch.stop ≠ .none ∧ (up.circ 0).sch.item = none ∧
    ((serving [.notice 0] .none).circ 0).sch.item = some (.story 5) ∧
    (serving [.notice 0] .none).story 5 = some (story .inService) ∧
    ((serving [.notice 0] .none).circ 0).sch.stop = .none := by decide

theorem witness_LineFieldsClamp : up.ccfg 1 = CircCfg.start ∧ (stagedCirc [] 0).starveLim = 0 ∧
    { up with applied := { up.applied with circs := vset up.applied.circs 1 (stagedCirc [] 0) } }.ccfg 1 =
      stagedCirc [] 0 ∧
    (stagedCirc [(0x148, 31)] 0).lead = 31 ∧ (stagedCirc [(0x148, 32)] 0).lead = 31 ∧
    (stagedCirc [(0x14A, 250)] 0).idleCode = 250 ∧ (stagedCirc [(0x14A, 251)] 0).idleCode = 250 ∧
    (stagedCirc [(0x14B, 1)] 0).brkThresh = 2 ∧ (stagedCirc [(0x14C, 3)] 0).clrTime = 3 ∧
    (stagedCirc [(0x14E, 63)] 0).faultLim = 64 ∧ (stagedCirc [(0x14E, 65)] 0).faultLim = 65 := by decide

/-- Idle codes at the edges of the three ranges, and the stop codes. -/
theorem witness_LineTimes :
    (stagedCirc [(0x14A, 60)] 0).idleCode = 60 ∧ (stagedCirc [(0x14A, 61)] 0).idleCode = 61 ∧
    (stagedCirc [(0x14A, 200)] 0).idleCode = 200 ∧ (stagedCirc [(0x14A, 201)] 0).idleCode = 201 ∧
    (stagedCirc [] 0).idleCode = 0 ∧ (stagedCirc [] 0).stopCode = 0 ∧ (stagedCirc [(0x141, 1)] 0).stopCode = 1 ∧
    (stagedCirc [(0x141, 2)] 0).stopCode = 2 := by decide

theorem witness_PlacementKeepsTheWidth :
    ({ cfg with width := 0 } : CircCfg).width = 0 ∧ 0 < cfg.width ∧ 69 ≤ cfg.width ∧
    (placeWord cfg 69 1 true .fold [substChar]).2 < 1 := by decide

theorem witness_PrinterFollowsThePlanes :
    (∀ x ∈ placeChars true [substChar], ∀ c, x.sym = .print c → c.code ∈ planeCodes) ∧
    (Sender.start.plane = none) ∧ ({ Sender.start with plane := some .fig } : Sender).plane = some .fig ∧
    2 * (placeChars true [substChar]).length ≤ 2 := by
  refine ⟨?_, rfl, rfl, by decide⟩
  intro x hx c hc
  simp only [placeChars, List.mem_singleton] at hx
  subst hx
  cases hc
  decide

theorem witness_CharacterIsCounted :
    (withStory up 5 (story .inService)).story 5 = some (story .inService) ∧
    (story .inService).delivery 0 =
      some { state := .inService, headSent := false, resumeOff := 4, inDirective := false, chars := 0, subs := 0, lines := 0 } ∧
    ({ code := 1, mark := .none, owner := some 5, headText := true } : SentChar).mark = .none := by decide

/-- Circuit 0 serves story 5 with a stop order, its state, column and sent set as given. -/
def stopping (k : StopOrder) (c : CState) (col : Nat) (sent : CircSet) : State :=
  ((((serving [] k).setStory 5 (some { story .inService with sent := sent })).updLu 0 fun l =>
    { l with state := c }).updSnd 0 fun d => { d with phase := .text, column := col }).updFtc 0 fun x =>
    { x with fetch := some (Fetch.mk 0 4 16 0x10000 [] false .keep) }

theorem witness_CharacterIsCounted_end :
    (∀ k ∈ [StopOrder.none, .clear, .kill .spiked], ∀ c ∈ [CState.running, .held], ∀ col ∈ [0, 12],
      ((stopping k c col 1).circ 0).sch.item = some (.story 5) ∧
      (stopping k c col 1).story 5 = some { story .inService with sent := 1 } ∧
      ((stopping k c col 1).circ 0).sch.stop = k ∧ ((stopping k c col 1).circ 0).lu.state = c ∧
      ((stopping k c col 1).circ 0).snd.column = col ∧ ((stopping k c col 1).circ 0).snd.stopBegun = false ∧
      ((stopping k c col 1).circ 0).snd.replay = none) ∧
    CircSet.has 1 0 = true ∧ CircSet.has 0 0 = false ∧
    (stopping (.kill .spiked) .running 12 1).stopOpen 0 = true ∧ (serving [] .none).stopOpen 0 = false ∧
    ((stopping .clear .running 0 0).circ 0).ftc.fetch.isSome = true ∧
    ((((stopping .clear .running 0 0).updSnd 0 fun d => { d with phase := .stopLine }).circ 0).snd.phase = .stopLine) ∧
    (up.notice 0 = none ∧ ∀ j : Slot32, j < 0 → up.notice j ≠ none) ∧ (∀ i, pooled.notice i ≠ none) ∧
    ((line fun l => { l with
      state := .running, slot := some { kind := .char { code := 1, mark := .newline .hard, owner := some 5,
                                                        headText := true }, elapsed := 9 } }).circ 0).lu.slot =
      some { kind := .char { code := 1, mark := .newline .hard, owner := some 5, headText := true }, elapsed := 9 } := by decide
/-- R156: a kill stop that meets the blank line's completion lapses: DONE, and the notice is queued here. -/
theorem test_lapsed_stop :
    (((stopping (.kill .spiked) .running 0 1).complete 0 .blankEnd).circ 0).sch.queue = [.notice 0] ∧
    (((stopping (.kill .spiked) .running 0 1).complete 0 .blankEnd).story 5) = none := by decide
/-- R151, R155: the stop line sent again by a line restart stays begun, so a hold at the restart newline keeps it. -/
theorem test_begun_stop_kept :
    let s := ((stopping (.kill .kill) .held 0 1).updSnd 0 fun d => { d with phase := .stopLine }).beginSvc 0
    (s.stopHeld 0) = false ∧ (stopping (.kill .kill) .held 0 1).stopHeld 0 = true := by decide

/-- Circuit 0 idle in RUNNING, a mark slot in progress. -/
def idle (h : Bool) : State :=
  line fun l => { l with state := .running, motor := true, hold := h, idle := some 9,
                         slot := some { kind := .mark, elapsed := 5 } }

/-- The idle circuit with a fill slot in progress and idle fill on. -/
def filling : State :=
  { (idle false).updLu 0 (fun l => { l with slot := some { kind := .fill 31, elapsed := 5 } }) with
    applied := { up.applied with circs := vset up.applied.circs 0 { cfg with idleFill := true } } }

/-- Circuit 0 in the lead with k slots left. -/
def leading (k : Nat) (h : Bool) : State :=
  line fun l => { l with state := .lead, leadLeft := k, hold := h, slot := some { kind := .leadChar, elapsed := 0 } }

/-- Circuit 0 sends a character of story 5. -/
def printing : State :=
  (serving [] .none).updLu 0 fun l => { l with
    state := .running, slot := some { kind := .char { code := 1, mark := .none, owner := some 5, headText := true }
                                      elapsed := 11520 } }

/-- A state with circuit 0's part pending. -/
def pendingPart (s : State) : State :=
  { s with mirror := { s.mirror with pendCirc := vset s.mirror.pendCirc 0 true } }

theorem witness_SlotCompletes :
    ((up.circ 0).lu.slot = none) ∧
    (((leading 2 false).circ 0).lu.leadLeft = 0 + 2 ∧ ((leading 2 false).circ 0).lu.state = .lead) ∧
    (∀ h, ((leading 1 h).circ 0).lu.slot.isSome = true ∧ ((leading 1 h).circ 0).lu.state = .lead ∧
      ((leading 1 h).circ 0).lu.fltDet = false ∧ ((leading 1 h).circ 0).lu.brkDet = false ∧
      ((leading 1 h).circ 0).lu.leadLeft ≤ 1 ∧ ((leading 1 h).circ 0).lu.hold = h ∧
      vget (leading 1 h).mirror.pendCirc 0 = false) ∧
    ((printing.circ 0).lu.slot.isSome = true ∧ (printing.circ 0).lu.state = .running ∧
      (printing.circ 0).lu.fltDet = false ∧ (printing.circ 0).lu.brkDet = false ∧
      (printing.circ 0).lu.hold = false ∧ vget printing.mirror.pendCirc 0 = false) ∧
    (∀ h, ((idle h).circ 0).lu.slot = some { kind := .mark, elapsed := 5 } ∧ ((idle h).circ 0).lu.hold = h ∧
      ((idle h).circ 0).lu.state = .running ∧ ((idle h).circ 0).lu.fltDet = false ∧
      ((idle h).circ 0).lu.brkDet = false ∧ (idle h).isIdle 0 = true ∧ ((idle h).circ 0).sch.stop = .none ∧
      ((idle h).circ 0).snd.plan = [] ∧ ((idle h).circ 0).snd.column = 0 ∧
      vget (idle h).mirror.pendCirc 0 = false ∧ ((idle h).ccfg 0).idleFill = false) ∧
    ((filling.circ 0).lu.slot = some { kind := .fill 31, elapsed := 5 } ∧ filling.isIdle 0 = true ∧
      (filling.ccfg 0).idleFill = true) := by decide

theorem witness_IdleTimeoutStops :
    ((idle false).isIdle 0 = true ∧ ((idle false).circ 0).lu.idle.isSome = true ∧
      ((idle false).ccfg 0).idleTicks ≠ 0 ∧ vget (idle false).mirror.pendCirc 0 = false) ∧
    ((pendingPart (idle false)).isIdle 0 = true ∧ vget (pendingPart (idle false)).mirror.pendCirc 0 = true) ∧
    ((up.circ 0).lu.idle = none ∧ up.isIdle 0 = false) := by decide

/-- Circuit 0 waits for copy at column 0 of an OPEN story, with a notice queued. -/
def starving : State :=
  ((withStory up 5 { story .inService with state := .open_, textEnd := 4 }).updSch 0 fun c =>
    { c with item := some (.story 5), queue := [.notice 0] }).setCirc 0
    { lu := { LineUnit.start with state := .running, motor := true }
      sch := { Sched.start with item := some (.story 5), queue := [.notice 0] }
      snd := { Sender.start with phase := .text, readPos := 4, nextUnsent := 4 }
      ftc := Fetcher.start }

/-- A URGENT story behind a ROUTINE one sets no earlier point than a TAKE mark. -/
def starved : State :=
  ((starving.setStory 6 (some { story .waiting with cls := 2 })).updSch 0 fun c => { c with queue := [.story 6] })

/-- Circuit 0 ready and free with items queued. -/
def choosing (dry : CircSet) (q : List Item) : State :=
  { (withStory up 5 { story .preempted with dry := dry }).updSch 0 (fun c => { c with queue := q }) with
    circuits := vset up.circuits 0
      { up.circ 0 with lu := { (up.circ 0).lu with state := .running }, sch := { Sched.start with queue := q } } }

/-- The starving circuit in the middle of a line. -/
def midLine : State := starved.updSnd 0 fun d => { d with column := 12 }

/-- The starving circuit with nothing queued. -/
def alone : State := starved.updSch 0 fun c => { c with queue := [] }

theorem witness_SelectionAndPutAside :
    (∀ d ∈ [(0 : CircSet), 1], ((choosing d [.story 5]).circ 0).sch.item = none ∧
      ((choosing d [.story 5]).circ 0).lu.state = .running ∧ ((choosing d [.story 5]).circ 0).lu.hold = false ∧
      ((choosing d [.story 5]).circ 0).sch.queue ≠ [] ∧ (choosing d [.story 5]).dryOn 0 (.story 5) = (d == 1)) ∧
    (((serving [] .none).circ 0).sch.item ≠ none ∧ (up.circ 0).lu.state ≠ .running ∧
      ((line fun l => { l with hold := true }).circ 0).lu.hold = true ∧ (up.circ 0).sch.queue = []) ∧
    (∀ s ∈ [starved, midLine, starved.updLu 0 fun l => { l with hold := true }],
      (s.circ 0).sch.item = some (.story 5) ∧
      (s.story 5).any (fun st => (st.delivery 0).isSome) = true ∧ (s.circ 0).lu.state = .running ∧
      s.waitingCopy 0 = true ∧ (s.ccfg 0).starveLim ≠ 0 ∧ (s.circ 0).sch.stop = .none ∧
      Item.story 5 ∉ (s.circ 0).sch.queue ∧ s.pointOf 0 ≠ .wordBoundary ∧ s.pointOf 0 ≠ .lineEnd ∧
      s.hasFresh 0 = true) ∧
    ((starved.circ 0).snd.column = 0 ∧ 0 < (midLine.circ 0).snd.column) ∧
    ((alone.circ 0).lu.state = .running ∧ alone.waitingCopy 0 = true ∧ (alone.ccfg 0).starveLim ≠ 0 ∧
      (alone.circ 0).sch.stop = .none ∧ alone.hasFresh 0 = false) ∧
    up.waitingCopy 0 = false ∧ (up.ccfg 1).starveLim = 0 := by decide

theorem witness_BreakIsDetected :
    (up.readsMarkOn 0 = true) ∧ ((inState .stopped false).circ 0).lu.state.breakable = false ∧
    ((inState .lead false).readsMarkOn 0 = false ∧ ((inState .lead false).circ 0).lu.state = .lead) ∧
    ((inState .running false).readsMarkOn 0 = false ∧ ((inState .running false).circ 0).lu.state = .running) ∧
    ((inState .held false).readsMarkOn 0 = false ∧ ((inState .held false).circ 0).lu.state = .held) := by decide

/-- A state with no lead slots on circuit 0. -/
def noLead (s : State) : State :=
  { s with applied := { s.applied with circs := vset s.applied.circs 0 { cfg with lead := 0 } } }

theorem witness_BreakClears :
    ((up.circ 0).lu.state ≠ .broken ∧ (inState .broken false).readsMarkOn 0 = false) ∧
    (∀ h, ∀ c ∈ [CState.running, .held, .lead], ((broken c h).circ 0).lu.state = .broken ∧
      (broken c h).readsMarkOn 0 = true ∧ ((broken c h).circ 0).lu.capture = some (captured c h) ∧
      ((broken c h).circ 0).lu.hold = false ∧ vget (broken c h).mirror.pendCirc 0 = false) ∧
    (((broken .running false).updLu 0 fun l => { l with hold := true }).circ 0).lu.hold = true ∧
    vget (pendingPart (broken .held false)).mirror.pendCirc 0 = true ∧ 0 < ((broken .lead false).ccfg 0).lead ∧
    ((noLead (broken .lead false)).ccfg 0).lead = 0 ∧ ((broken .held false).circ 0).sch.stop = .none := by decide

/-- Circuit 0 HELD with a capture record of an origin, its restart due or not, with or without an item. -/
def heldWith (o : Origin) (due : Bool) (item : Option Item) (col : Nat) : State :=
  ((line fun l => { l with
    state := .held, capture := some { captured .running false with origin := o, restartDue := due } }).updSch 0
      fun c => { c with item := item }).updSnd 0 fun d => { d with column := col }

theorem witness_BreakClears_restart :
    (∀ o ∈ [Origin.none, .text 4, .svc .head], ∀ due, ∀ item ∈ [none, some (Item.story 5)], ∀ col ∈ [0, 12],
      ((heldWith o due item col).circ 0).lu.state = .held ∧
      ((heldWith o due item col).circ 0).lu.capture =
        some { captured .running false with origin := o, restartDue := due } ∧
      ((heldWith o due item col).circ 0).sch.item = item ∧
      ((heldWith o due item col).circ 0).snd.column = col ∧ ((heldWith o due item col).ccfg 0).restart = true) ∧
    (let s := heldWith .none true none 0
     ({ s with applied := { s.applied with circs := vset s.applied.circs 0 { cfg with restart := false } } }.ccfg
      0).restart = false) := by decide
/-- R151: a restart of a text line reads the text again from the line origin behind a newline. -/
theorem test_restart_text :
    (((heldWith (.text 4) true (some (.story 5)) 12).takeUp 0).circ 0).snd.readPos = 4 ∧
    (((heldWith (.text 4) true (some (.story 5)) 12).takeUp 0).circ 0).snd.plan = placeNewline 2 .restart := by decide

theorem witness_LoopFaultIsTaken :
    (up.readsMarkOn 0 = true ∧ ((inState .off false).circ 0).lu.state = .off ∧
      ((inState .fault false).circ 0).lu.state = .fault) ∧
    ((inState .lead false).readsMarkOn 0 = false ∧ (inState .running false).readsMarkOn 0 = false) ∧
    (∀ c, (inState c false).readsMarkOn 0 = false ∧ ((inState c false).circ 0).lu.state = c ∧
      vget (inState c false).mirror.pendCirc 0 = false ∧
      vget (pendingPart (inState c false)).mirror.pendCirc 0 = true) ∧
    (let s := (leading 2 false).updLu 0 fun l => { l with fltDet := true }
     (s.circ 0).lu.slot = some { kind := .leadChar, elapsed := 0 } ∧ (s.circ 0).lu.state = .lead ∧
      (s.circ 0).lu.fltDet = true) := by
  refine ⟨by decide, by decide, fun c => ?_, by decide⟩
  cases c <;> decide

/-- Circuit 0 serves story 5 in an output phase with a line origin. -/
def atLine (p : Phase) (o : Origin) : State :=
  (serving [] .none).updSnd 0 fun d => { d with phase := p, origin := o, nextUnsent := 9 }

theorem witness_LoopFaultIsTaken_item :
    (up.circ 0).sch.item = none ∧
    ((up.updSch 0 fun c => { c with item := some (.notice 0) }).circ 0).sch.item = some (.notice 0) ∧
    (∀ p ∈ [Phase.opening, .head, .resume, .text, .lostNewline, .lostLine, .endLine, .blank],
      ∀ o ∈ [Origin.none, .text 4, .svc .head],
      ((atLine p o).circ 0).sch.item = some (.story 5) ∧ (atLine p o).story 5 = some (story .inService) ∧
      ((atLine p o).circ 0).sch.stop = .none ∧ ((atLine p o).circ 0).snd.phase = p ∧
      ((atLine p o).circ 0).snd.origin = o) ∧
    ((story .inService).delivery 0).isSome = true ∧ ((serving [] .clear).circ 0).sch.stop ≠ .none ∧
    ∀ q, (Origin.svc .head) ≠ .text q := by
  refine ⟨by decide, by decide, by decide, by decide, by decide, fun q h => by cases h⟩
/-- R152: a fault in the end line sets the resume offset at the text end. -/
theorem test_fault_in_end_line :
    (((atLine .endLine (.svc .endLine)).faultItem 0).story 5).bind (fun st => (st.delivery 0).map Delivery.resumeOff) =
      some 20 := by decide

theorem witness_FaultIsRestored :
    ((up.circ 0).lu.state ≠ .fault ∧ (inState .fault false).readsMarkOn 0 = false) ∧
    (((inState .fault true).circ 0).lu.state = .fault ∧ (inState .fault true).readsMarkOn 0 = true ∧
      vget (inState .fault true).mirror.pendCirc 0 = false ∧ ((inState .fault true).circ 0).sch.queue = [] ∧
      0 < ((inState .fault true).ccfg 0).lead ∧ vget (pendingPart (inState .fault true)).mirror.pendCirc 0 = true) ∧
    ((((inState .fault true).updSch 0 fun c => { c with queue := [.notice 0] }).circ 0).sch.queue ≠ []) ∧
    (((noLead (inState .fault true)).ccfg 0).lead = 0 ∧ ((inState .fault true).circ 0).lu.hold = false ∧
      ((inState .fault true).circ 0).lu.brkDet = false ∧
      ((inState .fault true).circ 0).lu.spaceRun < ((noLead (inState .fault true)).ccfg 0).brkLimit ∧
      (((inState .fault true).updLu 0 fun l => { l with hold := true }).circ 0).lu.hold = true) := by decide

/-- A report, and the Report Writer with one in writing and k queued. -/
def busy (k : Nat) : State :=
  writing.setWriter { writing.writer with queue := List.replicate k { kind := .looseCopy } }

theorem witness_PostedReports :
    ({ kind := .looseCopy } : Report).kind ≠ .resetDone ∧
    (up.writer.rec_ = none ∧ up.writer.queue = [] ∧ up.ringOpen = true) ∧
    (State.reset.writer.rec_ = none ∧ State.reset.ringOpen = false) ∧
    ((busy 3).writer.rec_ ≠ none ∧ (busy 3).writer.queue.length < 4) ∧ 4 ≤ (busy 4).writer.queue.length ∧
    (({ kind := .looseCopy } : Report).number = none ∧
      ({ kind := .killDone, number := some 417 } : Report).number = some 417) := by decide
/-- R173: the four words of a STORY_OPENED record of feed 2, tag 11, class 2, number 417. -/
theorem test_record :
    composeRecord { kind := .storyOpened, feed := some 2, tag := some 11, cls := some 2, number := some 417, valA := 3,
                    valB := 1, unrouted := true } true 258 =
      [0xFF020900, 0x01A1020B, 3, 0x01020001] := by decide

/-- One record stands in the ring and the host reads its word 0. -/
def reading : State :=
  (hostAt (rd 0x20000)).setWriter { Writer.start with tail := 1, count := 1, flags := [true], attn := 1 }

/-- The page load at an offset. -/
def loadAt (k : Nat) : State :=
  atPort { up with mirror := { up.mirror with load := some { next := k, nonzero := [] } } }
    (.mirror .load) (rd (0x03FFF000 + k)) false

theorem witness_HeadAndLoadReads :
    (reading.hostTxn = some (rd 0x20000) ∧ (rd 0x20000).write = false ∧
      reading.classify (Txn.word (rd 0x20000)) = .report reading.writer.head 0 ∧ 0 < reading.writer.count ∧
      reading.writer.queue = [] ∧ reading.mirror.pendRing ≠ .waiting) ∧
    ((loadAt 0xFF8).bus.port = some { by_ := .mirror .load, txn := rd 0x03FFFFF8, orphan := false } ∧
      (loadAt 0xFF8).mirror.load = some { next := 0xFF8, nonzero := [] } ∧
      Memory.wf (loadAt 0xFF8).mirror.staging = true ∧ 0xFF8 + 4 < pageSize) ∧
    ((loadAt 0xFFC).bus.port = some { by_ := .mirror .load, txn := rd 0x03FFFFFC, orphan := false } ∧
      (loadAt 0xFFC).mirror.load = some { next := 0xFFC, nonzero := [] } ∧ pageSize ≤ 0xFFC + 4) := by decide

/-- The record in writing, with k words done. -/
def record (k : Nat) : RecordJob := { slot := 0, words := [1, 2, 3, 4], flag := true, done := k, isReset := false }

def recordAt (k : Nat) (o : Bool) : State :=
  atPort (up.setWriter { up.writer with rec_ := some (record k) }) .writer (wr 0x20000 0xF 1) o

theorem witness_RecordWordCompletes :
    ((recordAt 0 true).bus.port = some { by_ := .writer, txn := wr 0x20000 0xF 1, orphan := true }) ∧
    ((recordAt 2 false).bus.port = some { by_ := .writer, txn := wr 0x20000 0xF 1, orphan := false } ∧
      (recordAt 2 false).writer.rec_ = some (record 2) ∧ (record 2).done < 3) ∧
    ((recordAt 3 false).writer.rec_ = some (record 3) ∧ 3 ≤ (record 3).done ∧
      (recordAt 3 false).writer.queue = []) := by decide

theorem witness_ListedWordCompletes :
    (atPort up (.mirror .list) (pg 0 0xE 0) false).bus.port =
      some { by_ := .mirror .list, txn := pg 0 0xE 0, orphan := false } ∧
    (∀ w ∈ (placed .list).mirror.writeList, w.off ≠ 8) ∧
    ((placed .list).mirror.writeList = [] ++ { off := 4, be := 1, data := 0 } :: [] ∧
      ((placed .list).mirror.writeList.map ListedWord.off).Nodup) := by decide

/-- A snapshot of two words in writing, k of them done. -/
def snapAt (k : Nat) (w : Bool) : State :=
  atPort { up with mirror := { up.mirror with snap := some { words := [1, 2], next := k, waiting := w } } }
    (.mirror .snap) (pg 0x810 0xF 1) false

theorem witness_SnapshotWordCompletes :
    ((snapAt 0 false).bus.port = some { by_ := .mirror .snap, txn := pg 0x810 0xF 1, orphan := false }) ∧
    ∀ w, (snapAt 0 w).mirror.snap = some { words := [1, 2], next := 0, waiting := w } ∧ 0 + 1 < [1, 2].length ∧
      (snapAt 1 w).mirror.snap = some { words := [1, 2], next := 1, waiting := w } ∧ [1, 2].length ≤ 1 + 1 := by decide

/-- Fetcher 0 reads a unit of feed 0, k words of it read. -/
def fetch (k : Nat) : Fetch :=
  { off := 0, start := 4, lim := 16, base := 0x10000, bytes := List.replicate (4 * k) 0x41, fault := false,
    fate := .keep }

def fetchAt (k : Nat) (o : Bool) : State :=
  atPort (up.updFtc 0 fun x => { x with fetch := some (fetch k) }) (.fetcher 0) (rd (0x10000 + 4 * k)) o

theorem witness_FetchedWordJoins :
    (fetchAt 0 true).bus.port = some { by_ := .fetcher 0, txn := rd 0x10000, orphan := true } ∧
    (fetchAt 2 false).bus.port = some { by_ := .fetcher 0, txn := rd 0x10008, orphan := false } ∧
    ((fetchAt 2 false).circ 0).ftc.fetch = some (fetch 2) ∧ (fetch 2).bytes.length + 4 < 16 ∧
    ((fetchAt 3 false).circ 0).ftc.fetch = some (fetch 3) ∧ 16 ≤ (fetch 3).bytes.length + 4 := by decide

/-- A lost unit of feed 0's first 16 bytes. -/
def lostUnit : LUnit := { off := 0, start := 4, lim := 16, data := [], lost := true }

/-- Circuit 0's Sender stands at the lost unit in the text, with a held word and a column. -/
def atLostUnit (held : List PChar) (col : Nat) : State :=
  ((serving [] .none).updSnd 0 fun d =>
    { d with phase := .text, readPos := 4, nextUnsent := 4, held := held, column := col }).updFtc 0 fun x =>
    { x with look := [lostUnit] }

theorem witness_FetchedWordJoins_lost :
    ((fetch 3).fate = .keep ∧ (fetch 3).fault = false ∧ ({ fetch 3 with fault := true } : Fetch).fault = true ∧
      ({ fetch 3 with fate := .dropStale } : Fetch).fate = .dropStale ∧
      ({ fetch 3 with fate := .dropBack } : Fetch).fate = .dropBack) ∧
    (lostUnit.off = (fetch 3).off ∧ lostUnit.lost = true ∧ ({ lostUnit with lost := false } : LUnit).lost = false ∧
      ({ lostUnit with off := 16 } : LUnit).off ≠ (fetch 3).off) ∧
    (∀ h ∈ [[], [substChar]], ∀ col ∈ [0, 5],
      let s := atLostUnit h col
      lookAt (s.circ 0).snd.readPos (s.circ 0).ftc.look = .lost lostUnit ∧ (s.circ 0).snd.readPos ≠ 20 ∧
      heldTooLong (s.ccfg 0).width (s.circ 0).snd.held.length = false ∧ (s.circ 0).snd.replayOver 16384 = false ∧
      (s.circ 0).sch.item = some (.story 5) ∧ (s.circ 0).snd.phase = .text ∧
      s.story 5 = some (story .inService) ∧ (s.circ 0).snd.replay = none) ∧
    ((atLostUnit [] 0).circ 0).atLost = true ∧ (atLostUnit [] 0).stopOpen 0 = false ∧
    ((atLostUnit [] 0).updSch 0 fun c => { c with stop := .clear }).stopOpen 0 = true ∧
    (textStep ((atLostUnit [] 0).textEnv 0 (story .inService)) 128 ((atLostUnit [] 0).circ 0).snd).2 =
      .lost lostUnit ∧
    (((atLostUnit [] 0).updSnd 0 fun d => { d with phase := .lostLine }).circ 0).snd.phase = .lostLine := by decide

/-- Feed 0's window part staged, its mark as given. -/
def winPart (m : Memory) (p : PartMark) : State :=
  let s := up.withStaging m
  { s with mirror := { s.mirror with pendWin := vset s.mirror.pendWin 0 p } }

/-- The ring part staged, its mark as given. -/
def ringPart (m : Memory) (p : PartMark) : State :=
  let s := up.withStaging m
  { s with mirror := { s.mirror with pendRing := p } }

/-- Circuit 0's entry staged in a state of the circuit. -/
def circPart (m : Memory) (c : CState) (on : Bool) : State :=
  let s := (inState c true).withStaging m
  { s with
    mirror := { s.mirror with pendCirc := vset s.mirror.pendCirc 0 true }
    applied := { s.applied with circs := vset s.applied.circs 0 { cfg with enable := on } } }

theorem witness_ApplyPartsAreTaken :
    (stagedLevels [] 0 ≠ (up.fcfg 0).levels ∧ (up.fcfg 0).win ≠ none ∧
      stagedLevels [(0x45, 0x41), (0x46, 0x50), (0x47, 12), (0x48, 14)] 0 = (up.fcfg 0).levels ∧ (1 : Feed) ≠ 0) ∧
    ((∀ p ∈ [PartMark.waiting, .vacated], vget (winPart [] p).mirror.pendWin 0 ≠ .clear ∧
        (winPart [] p).winCond 0 = true) ∧
      (stagedWin [(0x42, 1), (0x44, 1)] 0 = (up.fcfg 0).win) ∧
      (stagedWin [(0x42, 2), (0x44, 1)] 0 ≠ (up.fcfg 0).win ∧
        (winPart [(0x42, 2), (0x44, 1)] .waiting).winBlocked 0 (stagedWin [(0x42, 2), (0x44, 1)] 0) = true) ∧
      (stagedWin [(0x42, 3), (0x44, 1)] 0 ≠ (up.fcfg 0).win ∧
        (winPart [(0x42, 3), (0x44, 1)] .waiting).winBlocked 0 (stagedWin [(0x42, 3), (0x44, 1)] 0) = false) ∧
      (∀ g : Feed, g ≠ 0 → vget (winPart [] .waiting).mirror.pendWin g ≠ .vacated) ∧
      (winPart [] .waiting).mirror.pendRing ≠ .vacated ∧ (parsing.winCond 0 = false)) ∧
    ((ringPart [] .waiting).mirror.pendRing ≠ .clear ∧ up.writer.count = 0 ∧ up.writer.rec_ = none ∧
      stagedRing [(0x1E, 2), (0x20, 1)] = up.applied.ring ∧ stagedRing [] ≠ up.applied.ring ∧
      (ringPart [] .waiting).ringBlocked (stagedRing []) = false ∧
      stagedRing [(0x1E, 1), (0x20, 1)] ≠ up.applied.ring ∧
      (ringPart [] .waiting).ringBlocked (stagedRing [(0x1E, 1), (0x20, 1)]) = true) ∧
    ((∀ c ∈ [CState.off, .stopped, .held, .fault], vget (circPart [] c true).mirror.pendCirc 0 = true ∧
        ((circPart [] c true).circ 0).lu.state = c) ∧
      ((circPart [(0x140, 1)] .off false).ccfg 0).enable = false ∧ (stagedCirc [(0x140, 1)] 0).enable = true ∧
      ((circPart [] .held true).ccfg 0).enable = true ∧ (stagedCirc [] 0).enable = false ∧
      ((serving [.story 5] .none).circ 0).sch.item = some (.story 5)) ∧
    (let p := { up with mirror := { up.mirror with applyPending := true } }
     p.mirror.applyPending = true ∧ (∀ f, vget p.mirror.pendWin f = .clear) ∧ p.mirror.pendRing = .clear ∧
      (∀ n, vget p.mirror.pendCirc n = false) ∧ up.mirror.applyPending = false) := by decide

/-- Four deliveries of story 5, on circuits 0 to 3: WAITING, PREEMPTED, IN_SERVICE and DONE. -/
def spread (x : StoryState) : Story :=
  { story .waiting with
    state := x
    deliveries := Vector.ofFn fun n : Circ =>
      if h : n.1 < 4 then some
        { state := [DelState.waiting, .preempted, .inService, .done][n.1], headSent := false, resumeOff := 4,
          inDirective := false, chars := 0, subs := 0, lines := 0 }
      else none }

theorem witness_LiveStoryIsKilled :
    (∀ x ∈ [StoryState.open_, .closed], (withStory up 5 (spread x)).story 5 = some (spread x) ∧
      (spread x).state = x ∧ (spread x).delivery 4 = none ∧
      ∀ n : Circ, n.1 < 4 → ((spread x).delivery n).isSome = true) ∧
    (parsing.ctx 0).parse = .text 5 ∧ (parsing.story 5).any (fun st => st.state == .open_) = true ∧
    ((parsing.setParse 0 (.killnum (.text 5) 1 4)).ctx 0).parse = .killnum (.text 5) 1 4 ∧
    (let v := printing.updSch 0 fun c => { c with stop := .kill .kill }
     v.serving 5 0 = true ∧ v.stopOpen 0 = true ∧ (v.circ 0).lu.state = .running) := by decide

/-- Feed 0's intake in a parse state, story 5 OPEN. -/
def inParse (p : Parse) : State := parsing.setParse 0 p

theorem witness_TakenWriteIsParsed_bytes :
    (∀ p, ((inParse p).ctx 0).parse = p ∧ (inParse p).story 5 = parsing.story 5) ∧
    (parsing.story 5 = some { story .waiting with state := .open_ } ∧
      ({ story .waiting with state := .open_ } : Story).state = .open_ ∧ (story .waiting).state ≠ .open_) ∧
    ((46 : Nat) ≠ 47 ∧ (0x1F : Byte) ≠ 1 ∧ (0x1F : Byte) ≠ 2 ∧ (0x1F : Byte) ≠ 3 ∧ (0x1F : Byte) ≠ 4 ∧
      (0x1F : Byte) ≠ 0x18) ∧
    ((inParse .between).admitStory request).2 = some 0 ∧
    ((crowded { story .waiting with state := .open_ }).admitStory request).2 = none ∧
    ((0x30 : Byte).toNat = 0x30 ∧ (0x39 : Byte).toNat = 0x39 ∧ ¬((0x3A : Byte).toNat ≤ 0x39)) ∧
    ((1 : Nat) ≤ 5 ∧ ¬((6 : Nat) ≤ 5) ∧ ¬((1 : Nat) ≤ 0)) ∧
    (vget (winPart [] .waiting).mirror.pendWin 0 = .waiting ∧ (winPart [] .waiting).winCond 0 = true ∧
      vget (winPart [] .vacated).mirror.pendWin 0 ≠ .waiting ∧ parsing.winCond 0 = false) := by
  refine ⟨fun p => ⟨rfl, rfl⟩, by decide, by decide, by decide, ?_, by decide, by decide, by decide⟩
  · have h : ∀ t : Tag, (crowded { story .waiting with state := .open_ }).story t =
        some { story .waiting with state := .open_ } := by intro t; simp [crowded, State.story, vget]
    have h1 : ∀ l : List Tag,
        (l.find? fun t => ((crowded { story .waiting with state := .open_ }).story t).isNone) = none := by
      intro l; rw [List.find?_eq_none]; intro t _; simp [h]
    have h2 : ∀ l : List Tag, (l.find? fun t =>
        ((crowded { story .waiting with state := .open_ }).story t).any Story.victim) = none := by
      intro l; rw [List.find?_eq_none]; intro t _; simp [h, Story.victim]
    simp only [State.admitStory, State.chooseEntry, h1, h2]

/-! ### Witnesses of the further clauses -/

/-- R152: in STOPPED with a fault left detected, a run that comes to the limit enters FAULT, one that stood there not. -/
theorem test_fresh_run_faults :
    let l : LineUnit := { LineUnit.start with state := .stopped, sense := false, fltDet := true }
    Instr.loopFault 0 ∈ dueOn 0 { l with spaceRun := cfg.fltLimit } cfg ∧
    Instr.loopFault 0 ∉ dueOn 0 { l with spaceRun := cfg.fltLimit + 1 } cfg := by decide
/-- R136, R152: so does a fault left detected at the entry into HELD from a lead of no slots. -/
theorem test_fault_after_lead :
    ((((line fun l => { l with state := .lead, hold := true, fltDet := true }).leadEnd 0).circ 0).lu.state) = .fault := by
  decide
/-- R116, R150: a part taken in HELD leaves the rest of a split piece with its newline, which gets the new fill count. -/
theorem test_begun_word_stays :
    let d : Sender := { Sender.start with
      phase := .text, column := 15, plan := placeChars false [substChar] ++ placeNewline 0 .fold }
    (d.unplace 16384).refill 1 = { d with plan := placeChars false [substChar] ++ placeNewline 1 .fold } := by decide
/-- R151: after the replay the capture record goes at the next newline, a split's too, but not at the restart newline. -/
theorem test_capture_after_replay :
    let s := (serving [] .none).updLu 0 fun l =>
      { l with capture := some { captured .running false with drop := .afterReplay } }
    (((s.updSnd 0 fun d => { d with phase := .text, replay := some (4, 4), nextUnsent := 4 }).complete 0
      (.newline .fold)).circ 0).lu.capture = none ∧
    ((s.dropCapture 0 .restart).circ 0).lu.capture.isSome = true := by decide

theorem witness_RequestBytesWrittenBack :
    (∀ off d, (pg off 1 d).be.getLsbD 0 = true) ∧
    (hostAt (pg 4 1 2)).PageWriteAt (pg 4 1 2) 4 ∧ (hostAt (pg 4 1 0)).PageWriteAt (pg 4 1 0) 4 ∧
    (hostAt (pg 8 1 4)).PageWriteAt (pg 8 1 4) 8 ∧ (hostAt (pg 8 1 0)).PageWriteAt (pg 8 1 0) 8 ∧
    (2 ≤ (wordByte (pg 4 1 2).data 0).toNat ∧ 4 ≤ (wordByte (pg 8 1 4).data 0).toNat ∧
      4 ≤ (wordByte (pg 8 1 255).data 0).toNat ∧ wordByte (pg 4 1 0).data 0 = 0) :=
  ⟨fun _ _ => by simp [pg, wr, writeTxn], pageWriteAt _ _ _ (by decide) (by decide) (by decide),
    pageWriteAt _ _ _ (by decide) (by decide) (by decide),
    pageWriteAt _ _ _ (by decide) (by decide) (by decide), pageWriteAt _ _ _ (by decide) (by decide) (by decide), by decide⟩

/-- R36: with the cursor at 1, lanes 1 and 2 of the first word are taken, lanes 1 and 3, and 2 alone, are not. -/
theorem test_isTaken :
    let s := up.setCtx 0 { FeedCtx.start with cursor := 1 }
    s.isTaken 0 0 0b0110 = true ∧ s.isTaken 0 0 0b1010 = false ∧ s.isTaken 0 0 0b0100 = false ∧
    (0b0110 : BitVec 4) ≠ 0 := by decide

theorem witness_AdmissionFillsAnEntry_account :
    up.story 0 = none ∧ up.flist 0 = [] ∧ (up.fcfg 0).win ≠ none ∧ (up.fcfg 1).win = none ∧
    (withStory up 5 (story .done)).flist 0 = [5] ∧ (5 : Tag) ≠ 0 ∧
    (withStory up 5 (story .done)).story 5 = some (story .done) ∧ (withStory up 5 (story .done)).story 0 = none := by decide

/-- Circuit 0's Sender in the text of story 5 at a column, with bytes in the lookahead from the read position. -/
def inText (bs : List Byte) (col : Nat) : State :=
  ((serving [.notice 0] .none).updSnd 0 fun d =>
    { d with phase := .text, readPos := 4, nextUnsent := 4, column := col }).updFtc 0 fun x =>
    { x with look := [{ off := 0, start := 4, lim := 4 + bs.length, data := List.replicate 4 0 ++ bs, lost := false }] }

theorem witness_PreemptionPoint_act :
    (∀ col ∈ [0, 12],
      let s := inText [0x20, 0x41] col
      s.leaveOpen 0 = true ∧ (s.circ 0).snd.leave = none ∧ (s.circ 0).atLost = false ∧ (s.circ 0).snd.column = col ∧
      (s.circ 0).sch.stop = .none ∧ (s.circ 0).snd.replay = none ∧ (s.circ 0).snd.phase = .text) ∧
    (∀ p ∈ [Phase.head, .resume], ((atLine p .none).circ 0).snd.phase = p ∧
      ((atLine p .none).circ 0).sch.item = some (.story 5) ∧ ((atLine p .none).circ 0).sch.stop = .none ∧
      ((atLine p .none).circ 0).snd.leave = none ∧ ((atLine p .none).circ 0).snd.replay = none) ∧
    (textStep ((inText [4] 0).textEnv 0 (story .inService)) 128 ((inText [4] 0).circ 0).snd).2 = .takeRead ∧
    (∀ p ∈ [[Item.notice 0], [.story 6]],
      let s := (starving.setStory 6 (some { story .waiting with cls := 0 })).updSch 0 fun c => { c with queue := p }
      s.waitingCopy 0 = true ∧ (s.circ 0).lu.state = .running ∧ (s.circ 0).sch.stop = .none ∧
        (s.circ 0).snd.replay = none ∧ (s.pointOf 0 = .wordBoundary ∨ s.pointOf 0 = .lineEnd)) ∧
    ((serving [] .clear).circ 0).sch.stop ≠ .none ∧ ((story .inService).delivery 0).isSome = true ∧
    lookAt 4 ((inText [0x41] 0).circ 0).ftc.look ≠ .byte 0x20 ∧ (up.circ 0).sch.item = none ∧
    (up.circ 0).sch.stop = .none := by decide
/-- R97: above column 0 a newline comes first; at column 0 the delivery is PREEMPTED, past the spaces (log entry 10), and
goes back to the queue's front, ahead of which the notice is selected. -/
theorem test_preempted :
    (((inText [0x20, 0x41] 12).beginLeave 0 .preempt).circ 0).snd.plan = placeNewline 2 .leave ∧
    (((inText [0x20, 0x41] 0).beginLeave 0 .preempt).story 5).bind (fun st => st.delivery 0) =
      some { state := .preempted, headSent := false, resumeOff := 5, inDirective := false, chars := 0, subs := 0, lines := 0 } ∧
    (((inText [0x20, 0x41] 0).beginLeave 0 .preempt).circ 0).sch.queue = [.notice 0, .story 5] := by decide

/-- What the text of a story is read with: its end at 8, and the bytes given from offset 4. -/
def envOf (isOpen : Bool) (bs : List Byte) : TextEnv :=
  { cfg := cfg, size := 16384, textEnd := 8, isOpen := isOpen
    look := [{ off := 0, start := 4, lim := 4 + bs.length, data := List.replicate 4 0 ++ bs, lost := false }] }

/-- A Sender in the text at a read position with a held word. -/
def readingAt (p : Nat) (held : List PChar) : Sender :=
  { Sender.start with phase := .text, readPos := p, nextUnsent := 4, held := held }

theorem witness_PlacementKeepsTheWidth_reading :
    ((readingAt 4 []).replayOver 16384 = false ∧
      ({ readingAt 4 [] with replay := some (4, 4) } : Sender).replayOver 16384 = true) ∧
    (heldTooLong cfg.width 0 = false ∧ heldTooLong cfg.width 69 = false ∧ heldTooLong cfg.width 70 = true ∧
      heldTooLong 0 72 = false ∧ heldTooLong 0 73 = true) ∧
    ((readingAt 8 []).readPos = (envOf true []).textEnd ∧ (envOf true []).isOpen = true ∧ (envOf false []).isOpen = false ∧
      (readingAt 8 [substChar]).held ≠ []) ∧
    ((readingAt 4 []).readPos ≠ 8 ∧ lookAt 4 (envOf true []).look = .missing ∧
      ∀ b ∈ [(0x41 : Byte), 0x20, 0x0A, 0x04, 0x18, 0x0D, 0x39], lookAt 4 (envOf true [b]).look = .byte b) ∧
    (tokenOf 0x20 = .space ∧ tokenOf 0x0A = .newline ∧ tokenOf 0x04 = .take ∧ tokenOf 0x18 = .kill ∧
      tokenOf 0x0D = .skip ∧ (tokenOf 0x41).prints = true ∧ isDigit 0x39 = true ∧ isDigit 0x41 = false) ∧
    (∀ col ∈ [0, 5], ∀ b, ({ readingAt 4 [] with column := col, bare := b, inDirective := b } : Sender).bare = b) := by
  decide
/-- R117, R170: a word is held until a byte that ends it is seen, then placed; the space stays to be read. A is code 1
and B code 3. -/
theorem test_reads_word :
    let r := textStep (envOf true [0x41, 0x42, 0x20, 0x43]) 128 (readingAt 4 [])
    r.2 = .ready ∧ r.1.readPos = 6 ∧ r.1.nextUnsent = 6 ∧
    r.1.plan = placeChars true [{ plane := .ltr, code := 1, subst := false }, { plane := .ltr, code := 3, subst := false }] ∧
    (textStep (envOf true [0x41, 0x42]) 128 (readingAt 4 [])).2 = .nothing := by decide

theorem witness_PlacementKeepsTheWidth_phases :
    (∀ p ∈ [Phase.opening, .head, .resume, .text, .closing, .endLine, .stopLine, .lostLine, .blank],
      ((atLine p .none).circ 0).snd.phase = p ∧ ((atLine p .none).circ 0).sch.item = some (.story 5) ∧
      ((atLine p .none).circ 0).snd.svc = none ∧ ((atLine p .none).circ 0).snd.column = 0) ∧
    ((story .inService).delivery 0).isSome = true ∧ ((inText [] 12).circ 0).snd.column ≠ 0 ∧
    ((serving [] (.kill .lost)).circ 0).sch.stop = .kill .lost ∧
    (((atLine .head .none).beginSvc 0).circ 0).snd.svc.isSome = true ∧
    ((((pooled.updSch 0 fun c => { c with item := some (.notice 0) }).updSnd 0 fun d =>
      { d with phase := .notice }).circ 0).sch.item = some (.notice 0)) ∧ (pooled.notice 0).isSome = true ∧
    ([0x41] : List Byte) ≠ [] ∧ (417 : Nat) < 100000 := by decide
/-- R125: the head line of story 5, class ROUTINE, feed code AP, number 7, without a slug. -/
theorem test_headLine : (atLine .head .none).svcLine 0 =
    [0x52, 0x4F, 0x55, 0x54, 0x49, 0x4E, 0x45, 0x20, 0x41, 0x50, 0x37] := by decide

theorem witness_RecordWordCompletes_visible :
    (let s := (recordAt 3 false).setWriter { (recordAt 3 false).writer with rec_ := some { record 3 with isReset := true } }
     let r := { s with mirror := { s.mirror with resetWait := true } }
     r.writer.rec_ = some { record 3 with isReset := true } ∧ r.mirror.resetWait = true ∧ 3 ≤ (record 3).done) ∧
    ((busy 1).writer.rec_ ≠ none ∧ up.writer.queue = [] ∧
      ((up.setWriter { up.writer with queue := [{ kind := .looseCopy }] }).ringOpen = true) ∧
      ((noRing.setWriter { up.writer with queue := [{ kind := .looseCopy }] }).ringOpen = false) ∧
      (noRing.setWriter { up.writer with queue := [{ kind := .looseCopy }] }).writer.rec_ = none ∧
      ({ kind := .looseCopy } : Report).kind ≠ .resetDone) := by decide
/-- R30: the header's last word lists result 0 with the 0 of the kind, in one word with lanes 0 and 3, which takes the
port. -/
theorem test_snapshot_answer : (after .snapshotWordWrite (snapAt 1 false)).bus.port =
    some { by_ := .mirror .list, txn := pg 8 0b1001 0, orphan := false } := by decide
/-- R63, R106: a kill of a live story notices a circuit from which it was cleared midway, not one it had sent nothing to. -/
theorem test_cleared_midway :
    up.noticed { story .abandoned with sent := 1 } 0 = true ∧ up.noticed { story .abandoned with sent := 0 } 0 = false ∧
    up.noticed { story .waiting with sent := 1 } 0 = false := by decide
/-- R67, R100: the notice of such a kill is queued on the circuit, whose motor starts (R93). -/
theorem test_cleared_midway_notice :
    let st := { story .abandoned with sent := 1 }
    allCircs.filter ((withStory up 5 st).noticed st) = [0] ∧
    (((withStory up 5 st).makeNotices .kill (sourceOf 5 st) [0]).1.circ 0).sch.queue = [.notice 0] ∧
    (((withStory up 5 st).makeNotices .kill (sourceOf 5 st) [0]).1.circ 0).lu.state = .lead := by decide
end Sys2Proof.Tests
end

section
namespace Sys2Proof.Machine

/-! ### The host's requests at the end of an event (R9, R10) -/

section
variable {s : State}

theorem hostTxn_congr {t : State} (h : t.bus.port = s.bus.port) : t.hostTxn = s.hostTxn := by
  unfold State.hostTxn
  rw [h]

theorem hostTxn_of_port_none (h : s.bus.port = none) : s.hostTxn = none := by simp [State.hostTxn, h]

theorem port_of_hostTxn {x : Txn} (h : s.hostTxn = some x) : ∃ o, s.bus.port = some { by_ := .host, txn := x, orphan := o } := by
  unfold State.hostTxn at h
  split at h
  · rename_i t o hp
    cases h
    exact ⟨o, hp⟩
  · cases h

theorem hostTxn_of_internal {p : Flight} (h : s.bus.port = some p) (hp : p.by_ ≠ .host) : s.hostTxn = none := by
  cases hx : s.hostTxn with
  | none => rfl
  | some x =>
    obtain ⟨o, hq⟩ := port_of_hostTxn hx
    rw [h, Option.some.injEq] at hq
    exact absurd (congrArg Flight.by_ hq) hp

/-- A grant to an internal requester leaves the host's side of the port as it is (R11). -/
structure InternalGrant (s t : State) : Prop where
  hostTxn : t.hostTxn = none
  hostWaiting : t.bus.hostWaiting = s.bus.hostWaiting
  hostHeld : t.bus.hostHeld = s.bus.hostHeld
  rr : t.bus.rr = s.bus.rr
  streak : t.bus.streak = s.bus.streak

theorem InternalGrant.of_bus {t : State} (h : s.bus.port = none) (ht : t.bus = s.bus) : InternalGrant s t :=
  ⟨hostTxn_of_port_none (by rw [ht]; exact h), by rw [ht], by rw [ht], by rw [ht], by rw [ht]⟩

theorem occupy_internalGrant {t : State} (ht : t.bus = s.bus) {q : Requester} (hq : q ≠ .host) (x : Txn) :
    InternalGrant s (t.occupy q x) :=
  ⟨hostTxn_of_internal (p := { by_ := q, txn := x, orphan := false }) rfl hq,
    by simp [State.occupy, ht], by simp [State.occupy, ht], by simp [State.occupy, ht], by simp [State.occupy, ht]⟩

theorem grantFetch_internalGrant (h : s.bus.port = none) (n : Circ) : InternalGrant s (s.grantFetch n) := by
  unfold State.grantFetch
  split
  · exact .of_bus h rfl
  · exact occupy_internalGrant rfl (by simp) _

theorem grantRecord_internalGrant (h : s.bus.port = none) : InternalGrant s s.grantRecord := by
  unfold State.grantRecord
  split
  · exact occupy_internalGrant rfl (by simp) _
  · exact .of_bus h rfl

theorem grantMirror_internalGrant (h : s.bus.port = none) : InternalGrant s s.grantMirror := by
  simp only [State.grantMirror]
  (repeat' split)
  · exact .of_bus h rfl
  · exact .of_bus h rfl
  · exact occupy_internalGrant (by rfl) (by simp) _
  · exact .of_bus h rfl
  · exact occupy_internalGrant (by rfl) (by simp) _
  · exact .of_bus h rfl
  · exact occupy_internalGrant (by rfl) (by simp) _

/-- The pointer and the streak are set first; the word granted changes nothing of the host's side. -/
theorem grantInternal_internalGrant (h : s.bus.port = none) (i : Internal) :
    InternalGrant { s with bus := { s.bus with rr := i, streak := 0 } } (s.grantInternal i) := by
  unfold State.grantInternal
  split
  · exact grantFetch_internalGrant (s := { s with bus := { s.bus with rr := _, streak := 0 } }) h _
  · exact grantRecord_internalGrant (s := { s with bus := { s.bus with rr := _, streak := 0 } }) h
  · exact grantMirror_internalGrant (s := { s with bus := { s.bus with rr := _, streak := 0 } }) h

/-- At most one host request waits or is in flight, and a further one is held only behind one in flight (R9). -/
structure State.HostOrder (s : State) : Prop where
  passage : s.hostTxn.isSome = true → s.bus.hostWaiting = none
  held : s.bus.hostHeld.isSome = true → s.hostTxn.isSome = true

theorem State.HostOrder.of_bus {t : State} (h : s.HostOrder) (ht : t.bus = s.bus) : t.HostOrder := by
  have hx : t.hostTxn = s.hostTxn := hostTxn_congr (by rw [ht])
  exact ⟨by rw [hx, ht]; exact h.passage, by rw [hx, ht]; exact h.held⟩

theorem grant_hostOrder (h : s.HostOrder) : s.grant.HostOrder := by
  unfold State.grant
  split
  · exact h
  · rename_i hc
    have hp : s.bus.port = none := by
      cases hp : s.bus.port <;> simp [hp] at hc ⊢
    have hh : s.bus.hostHeld = none := by
      cases hh : s.bus.hostHeld with
      | none => rfl
      | some y => simpa [hostTxn_of_port_none hp] using h.held (by simp [hh])
    have hi : ∀ i, (s.grantInternal i).HostOrder := fun i => by
      have hg := grantInternal_internalGrant hp i
      exact ⟨by simp [hg.hostTxn], by simp [hg.hostHeld, hh]⟩
    have hg : ∀ t k, (s.grantHost t k).HostOrder := fun t k =>
      ⟨fun _ => rfl, by simp [State.grantHost, State.occupy, hh]⟩
    (repeat' split)
    · exact h
    · exact hi _
    · exact hg _ _
    · exact hg _ _
    · exact hi _

theorem placeMirror_bus : s.placeMirror.bus = s.bus := by
  unfold State.placeMirror
  split <;> rfl

/-- The host's side before the end of an event: a held request has one in flight before it, or is the next to be
accepted. -/
structure State.HostReady (s : State) : Prop where
  passage : s.hostTxn.isSome = true → s.bus.hostWaiting = none
  held : s.bus.hostHeld.isSome = true → s.hostTxn.isSome = true ∨ s.bus.hostWaiting = none ∧ s.bus.resetAsserted = false

theorem acceptHost_hostOrder (h : s.HostReady) : s.acceptHost.HostOrder := by
  unfold State.acceptHost
  split
  · rename_i hh
    exact ⟨h.passage, by simp [hh]⟩
  · rename_i x hh
    split
    · rename_i hc
      refine ⟨h.passage, fun _ => ?_⟩
      rcases h.held (by simp [hh]) with hp | ⟨hw, hr⟩
      · exact hp
      · simpa [hw, hr] using hc
    · rename_i hc
      have hx : s.hostTxn = none := by cases hx : s.hostTxn <;> simp [hx] at hc ⊢
      exact ⟨fun hi => by simp [State.hostTxn] at hi hx; grind, by simp⟩

theorem settleBus_hostOrder (h : s.HostReady) : s.settleBus.HostOrder :=
  grant_hostOrder ((acceptHost_hostOrder h).of_bus placeMirror_bus)

/-- What makes the state sound once the end of the event has run: soundness but for a held request, which may be the
next to be accepted. -/
structure State.Settling (s : State) : Prop where
  host : s.HostReady
  streak : s.bus.streak ≤ 8
  reset : s.bus.resetAsserted = true → s.Quiescent
  mem : Memory.wf s.mem = true
  staging : Memory.wf s.mirror.staging = true
  lawful : s.Lawful

theorem State.Sound.hostReady (h : s.Sound) : s.HostReady := ⟨h.passage, fun hh => .inl (h.held hh)⟩

/-- RESET, and the port free, wherever the quiet state holds. -/
theorem State.Sound.released_of_port (h : s.Sound) {p : Flight} (hp : s.bus.port = some p) :
    s.bus.resetAsserted = false := by
  cases hr : s.bus.resetAsserted with
  | false => rfl
  | true => simp [(h.reset hr).port] at hp

/-- The end of an event makes a sound state of one that is ready for it. -/
theorem State.Settling.sound (h : s.Settling) : s.settleBus.Sound := by
  have ho := settleBus_hostOrder h.host
  obtain ⟨b, l, r, ht, hb⟩ := settleBus_granted s
  refine ⟨ho.passage, ho.held, ?_, fun hr => ?_, by simpa using h.mem, by simpa using h.staging,
    lawful_settleBus h.lawful⟩
  · rw [ht]; exact hb.streak h.streak
  · rw [ht] at hr ⊢
    have hr' : s.bus.resetAsserted = true := hb.resetAsserted.symm.trans hr
    have hq := h.reset hr'
    exact ⟨by simp [hb.held hr', hq.port], hq.applied, hq.off⟩


end
end Sys2Proof.Machine
end

section
namespace Sys2Proof.Machine

/-! ### What a command can do -/

section
variable {s t : State}

/-- Every circuit is OFF, as RESET holds them (R157). -/
def State.AllOff (s : State) : Prop := ∀ n, (s.circ n).lu.state = .off

theorem slotDone_off {n : Circ} (h : (s.circ n).lu.state = .off) : s.slotDone n = s := by
  simp only [State.slotDone, h]
  split <;> rfl
theorem idleExpire_off {n : Circ} (h : (s.circ n).lu.state = .off) : s.idleExpire n = s := by
  simp [State.idleExpire, h]
theorem starveReached_off {n : Circ} (h : (s.circ n).lu.state = .off) : s.starveReached n = s := by
  simp [State.starveReached, h]
theorem breakReached_off {n : Circ} (h : (s.circ n).lu.state = .off) : s.breakReached n = s := by
  simp [State.breakReached, h, CState.breakable]
theorem clearReached_off {n : Circ} (h : (s.circ n).lu.state = .off) : s.clearReached n = s := by
  simp [State.clearReached, h]
theorem faultReached_off {n : Circ} (h : (s.circ n).lu.state = .off) : s.faultReached n = s := by
  simp [State.faultReached, h, CState.faultable]
theorem restoreReached_off {n : Circ} (h : (s.circ n).lu.state = .off) : s.restoreReached n = s := by
  simp [State.restoreReached, h]

/-- u is s after memory has completed the part's own word p, up to the end of the event: the port is free, story memory
takes at most that word, and only a page-load read changes staging (R8, R9). -/
structure OwnWord (s : State) (p : Flight) (u : State) : Prop where
  bus : u.bus = s.freePort.bus
  mem : u.mem = s.mem ∨ u.mem = memApply s.mem p.txn
  staging : p.by_ ≠ .mirror .load → u.mirror.staging = s.mirror.staging
  wf : Memory.wf s.mirror.staging = true → Memory.wf u.mirror.staging = true
  lawful : s.Lawful → u.Lawful

/-- u is s after an event of a circuit's line, up to the end of the event. Such an event concerns no circuit that is OFF. -/
structure LineEvent (s u : State) : Prop where
  outer : u.outer = s.outer
  lawful : s.Lawful → u.Lawful
  off : s.AllOff → u = s

/-- What one command other than POWER_ON_RESET makes of a state. -/
inductive Event (s : State) : State → Prop
  /-- The command names nothing that is there (log entry 1). -/
  | nothing : Event s s
  | release (page : BitVec 2) (load : Bool) : Event s (s.release page load)
  | present (x : Txn) : Event s (s.present x)
  | hostFault (x : Txn) (r : HostReply) (hx : s.hostTxn = some x) :
      Event s (State.settleBus { s.freePort with bus := { s.freePort.bus with hostReply := some r } })
  | host (x : Txn) (hx : s.hostTxn = some x) : Event s ((s.landed x).handOn x).settleBus
  | own (p : Flight) (u : State) (hp : s.bus.port = some p) (hi : p.by_ ≠ .host) (hu : OwnWord s p u) :
      Event s u.settleBus
  | line (u : State) (hu : LineEvent s u) : Event s u.settleBus
  | sense (n : Circ) (asserted : Bool) : Event s (s.senseLevel n asserted)

theorem completeHost_event (names : State → Txn → Bool) : Event s (s.completeHost names) := by
  unfold State.completeHost
  split
  · exact .nothing
  · rename_i x hx
    split
    · exact .host x hx
    · exact .nothing

theorem hostFault_event : Event s s.hostFault := by
  unfold State.hostFault
  split
  · exact .nothing
  · rename_i x hx
    split
    · exact .nothing
    · exact .hostFault x _ hx

/-- A word that changes nothing on the rim but the port and, at most, story memory. -/
theorem OwnWord.of_outer {p : Flight} {m : Memory} {u : State} (hm : m = s.mem ∨ m = memApply s.mem p.txn)
    (ho : u.outer = State.outer { s.freePort with mem := m }) (hl : s.Lawful → u.Lawful) : OwnWord s p u := by
  simp only [State.outer, Prod.mk.injEq] at ho
  obtain ⟨hb, hmem, hst, -, -⟩ := ho
  exact ⟨hb, by rw [hmem]; exact hm, fun _ => hst, by rw [hst]; exact id, hl⟩

theorem lawful_freePort (h : s.Lawful) : s.freePort.Lawful := lawful_mk_bus h _ rfl

theorem lawful_freePort_mem (h : s.Lawful) (m : Memory) : State.Lawful { s.freePort with mem := m } :=
  lawful_mk_mem (lawful_freePort h) m

theorem fetchComplete_event (fault : Bool) : Event s (s.fetchComplete fault) := by
  unfold State.fetchComplete
  split
  · rename_i n x o hp
    refine .own _ _ hp (by simp) (.of_outer (m := s.mem) (.inl rfl) ?_ fun h => ?_)
    · split
      · rfl
      · exact outer_fetchWord _ _ _ _
    · split
      · exact lawful_freePort h
      · exact lawful_fetchWord (lawful_freePort h) _ _ _
  · exact .nothing

theorem recordComplete_event : Event s s.recordComplete := by
  unfold State.recordComplete
  split
  · rename_i x o hp
    refine .own _ _ hp (by simp) (.of_outer (.inr rfl) ?_ fun h => ?_)
    · split
      · rfl
      · exact outer_recordWord _
    · split
      · exact lawful_freePort_mem h _
      · exact lawful_recordWord (lawful_freePort_mem h _)
  · exact .nothing

theorem listComplete_event : Event s s.listComplete := by
  unfold State.listComplete
  split
  · rename_i x o hp
    exact .own _ _ hp (by simp) (.of_outer (.inr rfl) rfl fun h => lawful_freePort_mem h _)
  · exact .nothing

theorem snapComplete_event : Event s s.snapComplete := by
  unfold State.snapComplete
  split
  · rename_i x o hp
    exact .own _ _ hp (by simp) (.of_outer (.inr rfl) (outer_snapWord _)
      fun h => lawful_snapWord (lawful_freePort_mem h _))
  · exact .nothing

/-- A page-load read puts its four bytes into staging and, at the end of the load, acts behind the bus only (R31). -/
theorem outer_loadWord (d : Word32) :
    (s.loadWord d).outer = s.outer ∨ ∃ off, (s.loadWord d).outer = (s.stageWrite off 0xF d).outer := by
  simp only [State.loadWord]
  split
  · exact .inl rfl
  · rename_i j _
    refine .inr ⟨j.next, ?_⟩
    split
    · exact outer_mk_mirror _ _ rfl
    · exact outer_loadEnd _ _

theorem loadComplete_event (fault : Bool) : Event s (s.loadComplete fault) := by
  unfold State.loadComplete
  split
  · rename_i x o hp
    refine .own _ _ hp (by simp) ?_
    have hl := fun h : s.Lawful => lawful_loadWord (lawful_freePort h) (s.ownWord x fault)
    rcases outer_loadWord (s := s.freePort) (s.ownWord x fault) with ho | ⟨off, ho⟩ <;>
      simp only [State.outer, Prod.mk.injEq] at ho <;>
      obtain ⟨hb, hm, hst, -, -⟩ := ho
    · exact ⟨hb, .inl hm, fun _ => hst, by rw [hst]; exact id, hl⟩
    · exact ⟨hb, .inl hm, by simp, by rw [hst]; exact fun h => memWriteLanes_wf h _ _ _, hl⟩
  · exact .nothing

/-- Whatever the command but POWER_ON_RESET, the next state is that of one of the events. -/
theorem exec_event {c : Instr} (hc : c ≠ .powerOnReset) (h : exec c s = .next t) : Event s t := by
  cases c <;> cases h
  case powerOnReset => exact absurd rfl hc
  case resetRelease => exact .release _ _
  case hostRequest => exact .present _
  case hostReadFault => exact hostFault_event
  case fetchWordComplete => exact fetchComplete_event _
  case recordWordComplete => exact recordComplete_event
  case mirrorWriteComplete => exact listComplete_event
  case snapshotWordWrite => exact snapComplete_event
  case pageLoadRead => exact loadComplete_event _
  case slotComplete n => exact .line _ ⟨outer_slotDone _ _, (lawful_slotDone · _), fun h => slotDone_off (h n)⟩
  case idleTimeout n => exact .line _ ⟨outer_idleExpire _ _, (lawful_idleExpire · _), fun h => idleExpire_off (h n)⟩
  case starveLimitReached n =>
    exact .line _ ⟨outer_starveReached _ _, (lawful_starveReached · _), fun h => starveReached_off (h n)⟩
  case breakDetected n =>
    exact .line _ ⟨outer_breakReached _ _, (lawful_breakReached · _), fun h => breakReached_off (h n)⟩
  case breakClear n =>
    exact .line _ ⟨outer_clearReached _ _, (lawful_clearReached · _), fun h => clearReached_off (h n)⟩
  case loopFault n =>
    exact .line _ ⟨outer_faultReached _ _, (lawful_faultReached · _), fun h => faultReached_off (h n)⟩
  case faultRestore n =>
    exact .line _ ⟨outer_restoreReached _ _, (lawful_restoreReached · _), fun h => restoreReached_off (h n)⟩
  case senseInputLevelChange => exact .sense _ _
  all_goals exact completeHost_event _

theorem exec_powerOnReset (h : exec .powerOnReset s = .next t) : t = s.powerOn := by
  cases h
  rfl

/-- No command faults or is refused. -/
theorem exec_goes (c : Instr) (s : State) : Goes (exec c s) := by
  cases c <;> exact ⟨_, rfl⟩

end
end Sys2Proof.Machine
end

section
namespace Sys2Proof.Machine

/-! ### Soundness -/

section
variable {s t : State}

/-- With nothing applied there is no region. -/
theorem appliedRegions_start (h : s.applied = Applied.start) : s.appliedRegions = [] := by
  simp [State.appliedRegions, State.fcfg, h, Applied.start, FeedCfg.start, regionOfFeed, regionOfRing]

theorem placed_start (h : s.applied = Applied.start) : s.Placed := by
  constructor <;> simp [appliedRegions_start h]

theorem writer_start_lawful (ring : Option Win) : Writer.start.Lawful ring :=
  ⟨Nat.zero_le _, Nat.zero_le _, rfl, rfl, fun _ _ => Nat.zero_le _,
    fun v _ => Nat.lt_of_lt_of_le (by decide) (ringSlots_pos v.code), fun v _ => by simp [Writer.start]⟩

/-- The rules of soundness see nothing of the queue of commands. -/
theorem State.Sound.withPending (h : s.Sound) (q : List Instr) : State.Sound { s with pending := q } :=
  ⟨h.passage, h.held, h.streak, fun hr => ⟨(h.reset hr).port, (h.reset hr).applied, (h.reset hr).off⟩, h.mem, h.staging,
    lawful_mk_pending h.lawful q⟩

theorem powerOn_off (n : Circ) : (s.powerOn.circ n).lu.state = .off := by
  simp [State.circ, State.powerOn, Circuit.powerOn, LineUnit.start]

theorem memAfterReset_wf (h : Memory.wf s.mem = true) : Memory.wf s.memAfterReset = true := by
  unfold State.memAfterReset
  split
  · split
    · exact memWriteLanes_wf h _ _ _
    · exact h
  · exact h

/-- RESET leaves a sound state as long as story memory was canonical. -/
theorem powerOn_sound (h : Memory.wf s.mem = true) : s.powerOn.Sound where
  passage := by simp [State.hostTxn, State.powerOn, Bus.start]
  held := by simp [State.powerOn, Bus.start]
  streak := Nat.zero_le _
  reset _ := ⟨rfl, rfl, powerOn_off⟩
  mem := memAfterReset_wf h
  staging := rfl
  lawful := ⟨writer_start_lawful _, placed_start rfl⟩

theorem release_sound (h : s.Sound) (page : BitVec 2) (load : Bool) : (s.release page load).Sound := by
  unfold State.release
  split
  · rename_i hr
    have hq := h.reset hr
    have h1 : State.Settling { s with bus := { s.bus with resetAsserted := false, page := page, loadStrap := load } } :=
      ⟨⟨h.passage, fun hh => .inl (h.held hh)⟩, h.streak, by simp, h.mem, h.staging,
        ⟨h.lawful.writer, placed_start hq.applied⟩⟩
    refine State.Settling.sound ?_
    split
    · exact ⟨⟨h1.host.passage, h1.host.held⟩, h1.streak, by simp, h1.mem, h1.staging, lawful_mk_mirror h1.lawful _⟩
    · exact ⟨⟨h1.host.passage, h1.host.held⟩, h1.streak, by simp [State.listAck, State.listBytes], h1.mem, h1.staging,
        lawful_listAck h1.lawful _ _ _⟩
  · exact h

@[simp] theorem presented_port (b : Bus) (i : Bool) (x : Txn) : (b.presented i x).port = b.port := by
  unfold Bus.presented; split <;> rfl
@[simp] theorem presented_streak (b : Bus) (i : Bool) (x : Txn) : (b.presented i x).streak = b.streak := by
  unfold Bus.presented; split <;> rfl
@[simp] theorem presented_page (b : Bus) (i : Bool) (x : Txn) : (b.presented i x).page = b.page := by
  unfold Bus.presented; split <;> rfl
@[simp] theorem presented_resetAsserted (b : Bus) (i : Bool) (x : Txn) :
    (b.presented i x).resetAsserted = b.resetAsserted := by
  unfold Bus.presented; split <;> rfl

theorem present_sound (h : s.Sound) (x : Txn) : (s.present x).Sound := by
  unfold State.present
  split
  · exact h
  · rename_i hc
    obtain ⟨hw, hh⟩ : s.bus.hostWaiting = none ∧ s.bus.hostHeld = none := by simpa using hc
    have hx : State.hostTxn { s with bus := s.bus.presented s.hostTxn.isSome x } = s.hostTxn :=
      hostTxn_congr (presented_port _ _ _)
    refine State.Settling.sound ⟨⟨fun hi => ?_, fun hi => ?_⟩, by simpa using h.streak, fun hr => ?_, h.mem, h.staging,
      lawful_mk_bus h.lawful _ (presented_page _ _ _)⟩
    · rw [hx] at hi
      simp [Bus.presented, hi, hw]
    · left
      rw [hx]
      by_contra hn
      simp [Bus.presented, hn, hh] at hi
    · have hq := h.reset (by simpa using hr)
      exact ⟨by simpa using hq.port, hq.applied, hq.off⟩

/-- After a completion the port is free and the host has no request in flight. -/
theorem settling_of_freePort {u : State} (h : s.Sound) {p : Flight} (hp : s.bus.port = some p)
    (hb : ∃ r, u.bus = { s.bus with port := none, hostReply := r }) (hm : Memory.wf u.mem = true)
    (hs : Memory.wf u.mirror.staging = true) (hl : u.Lawful) : u.Settling := by
  obtain ⟨r, hb⟩ := hb
  have hr := h.released_of_port hp
  have hx : u.hostTxn = none := hostTxn_of_port_none (by rw [hb])
  refine ⟨⟨by simp [hx], fun hh => .inr ⟨?_, by rw [hb]; exact hr⟩⟩, by rw [hb]; exact h.streak,
    by rw [hb]; simp [hr], hm, hs, hl⟩
  rw [hb] at hh ⊢
  exact h.passage (h.held hh)

theorem landed_lawful (h : s.Lawful) (x : Txn) : (s.landed x).Lawful :=
  lawful_mk_mem (lawful_mk_bus h { s.bus with port := none, hostReply := some (s.reply x) } rfl) _

/-- With the port free, an operation that leaves the rim alone leaves the whole bus alone. -/
theorem bus_of_rim {u : State} (h : u.rim = t.rim) (hp : t.bus.port = none) : u.bus = t.bus := by
  simp only [State.rim, Prod.mk.injEq] at h
  obtain ⟨hb, hi, -⟩ := h
  have hu : u.bus.port = none := by simpa [hp] using hi
  calc u.bus = { u.bus with port := none } := by rw [← hu]
    _ = { t.bus with port := none } := hb
    _ = t.bus := by rw [← hp]

theorem mem_of_rim {u : State} (h : u.rim = t.rim) : u.mem = t.mem := congrArg (·.2.2.1) h

theorem staging_of_rim {u : State} (h : u.rim = t.rim) : u.mirror.staging = t.mirror.staging :=
  congrArg (·.2.2.2.1) h

/-- The hand-over works with the port free, and leaves the bus and story memory alone. -/
theorem handOn_landed (x : Txn) : ((s.landed x).handOn x).bus = (s.landed x).bus ∧
    ((s.landed x).handOn x).mem = memApply s.mem x ∧
    (Memory.wf s.mirror.staging = true → Memory.wf ((s.landed x).handOn x).mirror.staging = true) := by
  rcases rim_handOn (s.landed x) x with h | ⟨off, h⟩
  · exact ⟨bus_of_rim h rfl, mem_of_rim h, by rw [staging_of_rim h]; exact id⟩
  · exact ⟨bus_of_rim (t := (s.landed x).stageWrite off x.be x.data) h rfl, mem_of_rim h,
      by rw [staging_of_rim h]; exact fun h => memWriteLanes_wf h _ _ _⟩

/-- Each event of a sound state leaves a sound one. -/
theorem Event.sound (e : Event s t) (h : s.Sound) : t.Sound := by
  cases e with
  | nothing => exact h
  | release page load => exact release_sound h page load
  | present x => exact present_sound h x
  | hostFault x r hx =>
    obtain ⟨o, hp⟩ := port_of_hostTxn hx
    exact State.Settling.sound (settling_of_freePort h hp ⟨_, rfl⟩ h.mem h.staging (lawful_mk_bus h.lawful _ rfl))
  | host x hx =>
    obtain ⟨o, hp⟩ := port_of_hostTxn hx
    obtain ⟨hb, hm, hst⟩ := handOn_landed (s := s) x
    exact State.Settling.sound (settling_of_freePort h hp ⟨_, hb⟩ (by rw [hm]; exact memApply_wf h.mem x) (hst h.staging)
      (lawful_handOn (landed_lawful h.lawful x) x))
  | own p u hp hi hu =>
    refine State.Settling.sound (settling_of_freePort h hp ⟨_, hu.bus⟩ ?_ (hu.wf h.staging) (hu.lawful h.lawful))
    rcases hu.mem with hm | hm <;> rw [hm]
    · exact h.mem
    · exact memApply_wf h.mem _
  | line u hu =>
    have ho := hu.outer
    simp only [State.outer, Prod.mk.injEq] at ho
    obtain ⟨hb, hm, hst, -, -⟩ := ho
    have hx : u.hostTxn = s.hostTxn := hostTxn_congr (by rw [hb])
    refine State.Settling.sound ⟨⟨?_, ?_⟩, by rw [hb]; exact h.streak, fun hr => ?_, by rw [hm]; exact h.mem,
      by rw [hst]; exact h.staging, hu.lawful h.lawful⟩
    · rw [hx, hb]; exact h.hostReady.passage
    · rw [hx, hb]; exact h.hostReady.held
    · rw [hb] at hr
      have hq := h.reset hr
      rw [hu.off hq.off]
      exact hq
  | sense n a =>
    have ho := outer_senseLevel s n a
    simp only [State.outer, Prod.mk.injEq] at ho
    obtain ⟨hb, hm, hst, -, -⟩ := ho
    have hx : (s.senseLevel n a).hostTxn = s.hostTxn := hostTxn_congr (by rw [hb])
    refine ⟨by rw [hx, hb]; exact h.passage, by rw [hx, hb]; exact h.held, by rw [hb]; exact h.streak, fun hr => ?_,
      by rw [hm]; exact h.mem, by rw [hst]; exact h.staging, lawful_senseLevel h.lawful n a⟩
    rw [hb] at hr
    have hq := h.reset hr
    unfold State.senseLevel
    split
    · exact hq
    · refine ⟨hq.port, hq.applied, fun m => ?_⟩
      by_cases hnm : n = m
      · subst hnm; simp [hq.off n]
      · rw [circ_updLu_ne s hnm]; exact hq.off m

theorem tick_circ (n : Circ) : s.tick.circ n = { s.circ n with lu := (s.circ n).lu.tick (s.ccfg n).invert } := by
  simp [State.tick, State.circ]

theorem tick_sound (h : s.Sound) : s.tick.Sound :=
  ⟨h.passage, h.held, h.streak, fun hr => by
      have hq := h.reset hr
      exact ⟨hq.port, hq.applied, fun n => by simp [tick_circ, LineUnit.tick, hq.off n]⟩,
    h.mem, h.staging, lawful_mk_pending (lawful_mk_circuits h.lawful _) _⟩

theorem step_goes (s : State) : Goes (step s) := by
  unfold step
  split
  · exact ⟨_, rfl⟩
  · exact exec_goes _ _

/-- Settles O3. -/
theorem stepKeepsSound : Obligations.StepKeepsSound := by
  intro s t h hst
  unfold step at hst
  split at hst
  · cases hst
    exact tick_sound h
  · rename_i c q _
    by_cases hc : c = .powerOnReset
    · subst hc
      rw [exec_powerOnReset hst]
      exact powerOn_sound h.mem
    · exact (exec_event hc hst).sound (h.withPending q)

/-- Settles O5, by induction on the length of the run. -/
theorem soundRunsAreSafe : Obligations.SoundRunsAreSafe := by
  intro k
  induction k with
  | zero => exact fun s h => h
  | succ k ih =>
    intro s h
    obtain ⟨t, ht⟩ := step_goes s
    exact ⟨h, t, ht, ih t (stepKeepsSound s t h ht)⟩

/-- Settles O4. -/
theorem resetIsSound : Obligations.ResetIsSound where
  passage := by simp [State.hostTxn, State.reset, Bus.start]
  held := by simp [State.reset, Bus.start]
  streak := Nat.zero_le _
  reset _ := ⟨rfl, rfl, fun n => by simp [State.circ, State.reset, Circuit.start, LineUnit.start]⟩
  mem := rfl
  staging := rfl
  lawful := ⟨writer_start_lawful _, placed_start rfl⟩

/-- Settles O1. -/
theorem stepRunsFront : Obligations.StepRunsFront := fun _ _ _ => rfl
end
end Sys2Proof.Machine
end

section
namespace Sys2Proof.Machine

/-! ### Who writes story memory and staging -/

section
variable {s t : State}

/-- The byte at a of the new story memory is as before, or it is an enabled byte of a write in flight and holds the value
written (R1, R2, R14). -/
def ByteKeptOrWritten (s t : State) (a : Nat) : Prop :=
  memRead t.mem a = memRead s.mem a ∨
    ∃ p i, s.bus.port = some p ∧ p.txn.write = true ∧ i < 4 ∧ p.txn.be.getLsbD i = true ∧
      a = Txn.word p.txn + i ∧ memRead t.mem a = wordByte p.txn.data i

/-- Writing some of the enabled lanes of the write in flight. -/
theorem keptOrWritten_lanes (hwf : Memory.wf s.mem = true) {p : Flight} (hp : s.bus.port = some p)
    (hw : p.txn.write = true) {l : List Nat} (hl : ∀ i ∈ l, i ∈ lanesOf p.txn.be)
    (ht : t.mem = memWriteLanes s.mem (Txn.word p.txn) p.txn.data l) (a : Nat) : ByteKeptOrWritten s t a := by
  have hr := memRead_memWriteLanes hwf (Txn.word p.txn) p.txn.data l a
  rw [← ht] at hr
  split at hr
  · rename_i hc
    obtain ⟨h4, hb⟩ := (mem_lanesOf _ _).1 (hl _ hc.2)
    exact .inr ⟨p, a - Txn.word p.txn, hp, hw, h4, hb, by omega, hr⟩
  · exact .inl hr

theorem keptOrWritten_apply (hwf : Memory.wf s.mem = true) {p : Flight} (hp : s.bus.port = some p)
    (ht : t.mem = memApply s.mem p.txn) (a : Nat) : ByteKeptOrWritten s t a := by
  by_cases hw : p.txn.write = true
  · exact keptOrWritten_lanes hwf hp hw (fun _ h => h) (by rw [ht, memApply, if_pos hw]) a
  · exact .inl (by rw [ht, memApply_read _ _ (by simpa using hw)])

theorem keptOrWritten_powerOn (hwf : Memory.wf s.mem = true) (a : Nat) : ByteKeptOrWritten s s.powerOn a := by
  cases hp : s.bus.port with
  | none => exact .inl (by simp [State.powerOn, State.memAfterReset, hp])
  | some p =>
    by_cases hw : p.txn.write = true
    · exact keptOrWritten_lanes (l := landLanes s.freeCount p.txn.be) hwf hp hw
        (fun i hi => List.mem_of_mem_filter hi) (by simp [State.powerOn, State.memAfterReset, hp, hw]) a
    · exact .inl (by simp [State.powerOn, State.memAfterReset, hp, hw])

theorem release_mem (page : BitVec 2) (load : Bool) : (s.release page load).mem = s.mem := by
  unfold State.release
  split
  · rw [settleBus_mem]
    split <;> rfl
  · rfl

theorem present_mem (x : Txn) : (s.present x).mem = s.mem := by
  unfold State.present
  split
  · rfl
  · exact settleBus_mem _

/-- An event other than POWER_ON_RESET leaves story memory as it was, or carries out the transaction at the port. -/
theorem Event.mem (e : Event s t) : t.mem = s.mem ∨ ∃ p, s.bus.port = some p ∧ t.mem = memApply s.mem p.txn := by
  cases e with
  | nothing => exact .inl rfl
  | release page load => exact .inl (release_mem _ _)
  | present x => exact .inl (present_mem _)
  | hostFault x r hx => exact .inl (settleBus_mem _)
  | host x hx =>
    obtain ⟨o, hp⟩ := port_of_hostTxn hx
    exact .inr ⟨_, hp, (settleBus_mem _).trans (handOn_landed x).2.1⟩
  | own p u hp hi hu =>
    rw [settleBus_mem]
    exact hu.mem.imp id fun hm => ⟨p, hp, hm⟩
  | line u hu => exact .inl ((settleBus_mem _).trans (congrArg (·.2.1) hu.outer))
  | sense n a => exact .inl (congrArg (·.2.1) (outer_senseLevel s n a))

/-- Settles O7: by the kinds of event, of which only a completion at the port and RESET touch story memory. -/
theorem onlyThePortWritesMemory : Obligations.OnlyThePortWritesMemory := by
  intro c s t a hwf ht hfree
  have hk : ByteKeptOrWritten s t a := by
    by_cases hc : c = .powerOnReset
    · subst hc
      rw [exec_powerOnReset ht]
      exact keptOrWritten_powerOn hwf a
    · rcases (exec_event hc ht).mem with hm | ⟨p, hp, hm⟩
      · exact .inl (by rw [hm])
      · exact keptOrWritten_apply hwf hp hm a
  rcases hk with hk | ⟨p, i, hp, hw, hi, hb, ha, -⟩
  · exact hk
  · exact absurd ha (hfree p hp hw i hi hb)

/-- Settles O10. -/
theorem resetMidWrite : Obligations.ResetMidWrite := by
  intro s t a hwf ht
  rw [exec_powerOnReset ht]
  exact keptOrWritten_powerOn hwf a

/-! ### Address classes and the hand-over (R5, R6) -/

theorem inRegion_iff (a base size : Nat) : inRegion a base size = true ↔ base ≤ a ∧ a < base + size := by
  simp [inRegion]

theorem classify_page {a : Nat} (h : s.page ≤ a ∧ a < s.page + pageSize) : s.classify a = .control (a - s.page) := by
  simp only [State.classify, (inRegion_iff _ _ _).2 h, if_true]

theorem classifyRing_ne_control (a off : Nat) : s.classifyRing a ≠ .control off := by
  unfold State.classifyRing
  (repeat' split) <;> simp

theorem classify_control {a off : Nat} (h : s.classify a = .control off) :
    s.page ≤ a ∧ a < s.page + pageSize ∧ off = a - s.page := by
  simp only [State.classify] at h
  split at h
  · rename_i hin
    obtain ⟨h1, h2⟩ := (inRegion_iff _ _ _).1 hin
    exact ⟨h1, h2, by simpa using h.symm⟩
  · split at h
    · cases h
    · exact absurd h (classifyRing_ne_control _ _)

theorem handOver_write {x : Txn} (hw : x.write = true) (hb : x.be ≠ 0) :
    s.handOver x = (s.classify (Txn.word x)).handOver true := by
  rw [State.handOver, if_neg fun h => hb (by simpa [hw] using h), hw]

theorem handOver_noLane {x : Txn} (hw : x.write = true) (hb : x.be = 0) : s.handOver x = .nothing := by
  simp [State.handOver, hw, hb]

theorem handOver_read {x : Txn} (hw : x.write = false) :
    s.handOver x = (s.classify (Txn.word x)).handOver false := by
  simp [State.handOver, hw]

/-- What is handed on does not hang on what memory and the port hold. -/
@[simp] theorem handOver_landed (x y : Txn) : (s.landed x).handOver y = s.handOver y := rfl

theorem addrClass_handOver_page {c : AddrClass} {write : Bool} {off : Nat} (h : c.handOver write = .page off) :
    c = .control off ∧ write = true := by
  cases c <;> cases write <;> simp_all [AddrClass.handOver]

/-- A write handed to the Mirror is the page write in flight. -/
theorem pageWriteAt_of_handOver {x : Txn} {off : Nat} (hx : s.hostTxn = some x) (ho : s.handOver x = .page off)
    (hwf : Memory.wf s.mirror.staging = true) : s.PageWriteAt x off := by
  unfold State.handOver at ho
  split at ho
  · cases ho
  · rename_i hc
    obtain ⟨hcls, hw⟩ := addrClass_handOver_page ho
    obtain ⟨h1, h2, h3⟩ := classify_control hcls
    exact ⟨hx, hw, by simpa [hw] using hc, by omega, by omega, hwf⟩

theorem handOver_of_pageWriteAt {x : Txn} {off : Nat} (h : s.PageWriteAt x off) : s.handOver x = .page off := by
  have hin := h.inPage
  rw [handOver_write h.write h.lanes, h.word, classify_page ⟨by omega, by omega⟩]
  simp [AddrClass.handOver]

/-- Only a page write hands on something that reaches staging (R17). -/
theorem outer_handOn {x : Txn} (h : ∀ off, s.handOver x ≠ .page off) : (s.handOn x).outer = s.outer := by
  unfold State.handOn
  split
  · rename_i off ho
    exact absurd ho (h off)
  · exact outer_feedWrite _ _ _ _ _
  · exact outer_ringRead _ _ _
  · rfl

theorem release_staging (page : BitVec 2) (load : Bool) :
    (s.release page load).mirror.staging = s.mirror.staging := by
  unfold State.release
  split
  · rw [settleBus_staging]
    split <;> rfl
  · rfl

theorem present_staging (x : Txn) : (s.present x).mirror.staging = s.mirror.staging := by
  unfold State.present
  split
  · rfl
  · exact settleBus_staging _

/-- An event other than POWER_ON_RESET changes staging by a page write or a page-load read only. -/
theorem Event.staging (e : Event s t) (hwf : Memory.wf s.mirror.staging = true)
    (hpage : ∀ x off, ¬ s.PageWriteAt x off) (hload : ∀ p, s.bus.port = some p → p.by_ ≠ .mirror .load) :
    t.mirror.staging = s.mirror.staging := by
  cases e with
  | nothing => rfl
  | release page load => exact release_staging _ _
  | present x => exact present_staging _
  | hostFault x r hx => exact settleBus_staging _
  | host x hx =>
    have ho : ∀ off, (s.landed x).handOver x ≠ .page off := fun off ho =>
      hpage x off (pageWriteAt_of_handOver hx ho hwf)
    exact (settleBus_staging _).trans (congrArg (·.2.2.1) (outer_handOn ho))
  | own p u hp hi hu => exact (settleBus_staging _).trans (hu.staging (hload p hp))
  | line u hu => exact (settleBus_staging _).trans (congrArg (·.2.2.1) hu.outer)
  | sense n a => exact congrArg (·.2.2.1) (outer_senseLevel s n a)

/-- Settles O8. -/
theorem onlyPageTrafficStages : Obligations.OnlyPageTrafficStages :=
  fun _ _ _ hwf ht hc hpage hload => (exec_event hc ht).staging hwf hpage hload

/-! ### Address classes (R5) -/

theorem mem_allFeeds (f : Feed) : f ∈ allFeeds := by revert f; decide

theorem mem_appliedRegions_feed {f : Feed} {w : Win} (h : (s.fcfg f).win = some w) :
    { entry := f.1, base := w.base, size := w.feedSize } ∈ s.appliedRegions := by
  simp only [State.appliedRegions, List.mem_append, List.mem_flatMap]
  exact .inl ⟨f, mem_allFeeds f, by simp [h, regionOfFeed]⟩

theorem mem_appliedRegions_ring {w : Win} (h : s.applied.ring = some w) :
    { entry := 12, base := w.base, size := w.ringBytes } ∈ s.appliedRegions := by
  simp [State.appliedRegions, h, regionOfRing]

/-- An address lies in one region at most of two that share no address (R4). -/
theorem not_inRegion_of_overlap {a b1 z1 b2 z2 : Nat} (h : overlap b1 z1 b2 z2 = false) (h1 : b1 ≤ a ∧ a < b1 + z1) :
    inRegion a b2 z2 = false := by
  simp only [overlap, Bool.and_eq_false_iff, decide_eq_false_iff_not] at h
  simp only [inRegion, Bool.and_eq_false_iff, decide_eq_false_iff_not]
  omega

theorem inFeed_eq {f : Feed} {w : Win} (h : (s.fcfg f).win = some w) (a : Nat) :
    s.inFeed a f = inRegion a w.base w.feedSize := by simp [State.inFeed, h]

theorem inFeed_disabled {f : Feed} (h : (s.fcfg f).win = none) (a : Nat) : s.inFeed a f = false := by
  simp [State.inFeed, h]

/-- Outside the page the class is that of the feed window found, and of the ring where none is found. -/
theorem classify_outside {a : Nat} (h : inRegion a s.page pageSize = false) :
    s.classify a = match allFeeds.find? (s.inFeed a) with
      | some f => .feed f (a - s.fbase f)
      | none => s.classifyRing a := by
  unfold State.classify
  exact if_neg (by simp [h])

/-- An address in one region only of the windows: the search finds that feed. -/
theorem find_inFeed {a : Nat} {f : Feed} (hf : s.inFeed a f = true) (hg : ∀ g, g ≠ f → s.inFeed a g = false) :
    allFeeds.find? (s.inFeed a) = some f := by
  cases h : allFeeds.find? (s.inFeed a) with
  | none => exact absurd hf (List.find?_eq_none.1 h f (mem_allFeeds f))
  | some g =>
    by_contra hne
    have := List.find?_some h
    rw [hg g (by simpa using hne)] at this
    cases this

theorem find_inFeed_none {a : Nat} (hg : ∀ g, s.inFeed a g = false) : allFeeds.find? (s.inFeed a) = none := by
  simp [List.find?_eq_none, hg]

/-- Settles O15: the regions share no address, so the search meets one of them at most. -/
theorem classesFollowRegions : Obligations.ClassesFollowRegions := by
  intro s a hp
  have apart_feed : ∀ {r : Region}, r ∈ s.appliedRegions → r.base ≤ a ∧ a < r.base + r.size →
      ∀ g : Feed, r.entry ≠ g.1 → s.inFeed a g = false := by
    intro r hr hin g hne
    cases hg : (s.fcfg g).win with
    | none => exact inFeed_disabled hg a
    | some v =>
      rw [inFeed_eq hg]
      exact not_inRegion_of_overlap (hp.apart r hr _ (mem_appliedRegions_feed hg) hne) hin
  refine ⟨fun h1 h2 => classify_page ⟨h1, h2⟩, fun f w hw h1 h2 => ?_, fun w hw h1 h2 => ?_, fun hpage hfeeds hring => ?_⟩
  · have hr := mem_appliedRegions_feed hw
    have hf := find_inFeed (by rw [inFeed_eq hw]; exact (inRegion_iff _ _ _).2 ⟨h1, h2⟩)
      fun g hg => apart_feed hr ⟨h1, h2⟩ g (by simpa [Fin.ext_iff, eq_comm] using hg)
    rw [classify_outside (not_inRegion_of_overlap (hp.page _ hr) ⟨h1, h2⟩), hf]
    simp [State.fbase, hw]
  · have hr := mem_appliedRegions_ring hw
    rw [classify_outside (not_inRegion_of_overlap (hp.page _ hr) ⟨h1, h2⟩),
      find_inFeed_none fun g => apart_feed hr ⟨h1, h2⟩ g (by simp; omega)]
    simp [State.classifyRing, hw, (inRegion_iff _ _ _).2 ⟨h1, h2⟩]
  · have hfeed : ∀ g, s.inFeed a g = false := fun g => by
      cases hg : (s.fcfg g).win with
      | none => exact inFeed_disabled hg a
      | some v => rw [inFeed_eq hg]; simpa [← inRegion_iff] using hfeeds g v hg
    rw [classify_outside (by simpa [← inRegion_iff] using hpage), find_inFeed_none hfeed]
    unfold State.classifyRing
    cases hw : s.applied.ring with
    | none => rfl
    | some w => simp only [(by simpa [← inRegion_iff] using hring w hw : inRegion a w.base w.ringBytes = false)]; rfl

end
end Sys2Proof.Machine
end

section
namespace Sys2Proof.Machine

/-! ### What the end of an event leaves alone -/

section
variable {s t u : State}

/-- What the bus, the Mirror and the memory hold is no part of the blocks behind the bus. -/
theorem sameBlocks_update (b : Bus) (m : Mirror) (x : Memory) :
    s.SameBlocks { s with bus := b, mirror := m, mem := x } :=
  ⟨rfl, rfl, rfl, rfl, rfl, rfl, rfl, rfl, rfl, rfl, rfl⟩

theorem settleBus_sameBlocks (h : s.SameBlocks u) : s.SameBlocks u.settleBus := by
  obtain ⟨b, l, r, ht, -⟩ := settleBus_granted u
  rw [ht]
  exact ⟨h.applied, h.intake, h.stories, h.admission, h.feedLists, h.index, h.history, h.accounts, h.circuits, h.pool,
    h.writer⟩

theorem settleBus_sameMirror (h : s.SameMirror u) : s.SameMirror u.settleBus := by
  obtain ⟨b, l, r, ht, -⟩ := settleBus_granted u
  rw [ht]
  exact h

theorem settleBus_load : u.settleBus.mirror.load = u.mirror.load := by
  obtain ⟨b, l, r, ht, -⟩ := settleBus_granted u
  rw [ht]

theorem settleBus_page : u.settleBus.bus.page = u.bus.page := by
  obtain ⟨b, l, r, ht, hb⟩ := settleBus_granted u
  rw [ht]
  exact hb.page

theorem settleBus_loadStrap : u.settleBus.bus.loadStrap = u.bus.loadStrap := by
  obtain ⟨b, l, r, ht, hb⟩ := settleBus_granted u
  rw [ht]
  exact hb.loadStrap

theorem settleBus_resetAsserted : u.settleBus.bus.resetAsserted = u.bus.resetAsserted := by
  obtain ⟨b, l, r, ht, hb⟩ := settleBus_granted u
  rw [ht]
  exact hb.resetAsserted

/-! ### Completions of host transactions (R2, R3, R6) -/

theorem completeHost_names {x : Txn} {names : State → Txn → Bool} (hx : s.hostTxn = some x)
    (hn : names s x = true) : s.completeHost names = ((s.landed x).handOn x).settleBus := by
  simp only [State.completeHost, hx, hn, if_true]
  rfl

theorem handOn_nothing {x : Txn} (h : s.handOver x = .nothing) : s.handOn x = s := by
  simp only [State.handOn, h]

theorem handOn_report {x : Txn} {j w : Nat} (h : s.handOver x = .report j w) : s.handOn x = s.ringRead j w := by
  simp only [State.handOn, h]

theorem handOn_page {x : Txn} {off : Nat} (h : s.handOver x = .page off) :
    s.handOn x = s.pageWrite off x.be x.data := by
  simp only [State.handOn, h]

theorem namesNothing_landed (x y : Txn) : namesNothing (s.landed x) y = namesNothing s y := by
  unfold namesNothing
  rw [handOver_landed]
  rfl

theorem landed_sameBlocks (x : Txn) : s.SameBlocks (s.landed x) :=
  sameBlocks_update _ _ _

/-- A transaction that names nothing of the Report Writer's or of another block hands nothing on that has an effect. -/
theorem handOn_namesNothing {x : Txn} (h : namesNothing s x = true) : s.handOn x = s := by
  unfold namesNothing at h
  cases ho : s.handOver x with
  | nothing => exact handOn_nothing ho
  | report j w =>
    have hc : s.consumes j w = false := by simpa [ho] using h
    rw [handOn_report ho, State.ringRead, hc]
    rfl
  | page off => simp [ho] at h
  | copy f off => simp [ho] at h

theorem namesNothing_of_nothing {x : Txn} (h : s.handOver x = .nothing) : namesNothing s x = true := by
  simp only [namesNothing, h]

theorem namesNothing_of_report {x : Txn} {j w : Nat} (h : s.handOver x = .report j w) (hc : s.consumes j w = false) :
    namesNothing s x = true := by
  simp only [namesNothing, h, hc, Bool.not_false]

/-- A read outside the report ring concerns no block (R6). -/
theorem handOver_read_nothing {c : AddrClass} (h : ∀ j w, c ≠ .report j w) : c.handOver false = .nothing := by
  cases c with
  | report j w => exact absurd rfl (h j w)
  | control _ | feed _ _ | other => rfl

/-- A read in the report ring that is not of word 0 of the head slot, or with no record unconsumed (R161). -/
theorem consumes_false {j w : Nat} (h : w ≠ 0 ∨ j ≠ s.writer.head ∨ s.writer.count = 0) : s.consumes j w = false := by
  simp only [State.consumes, Bool.and_eq_false_iff, beq_eq_false_iff_ne, decide_eq_false_iff_not]
  omega

/-- Settles O16: such a transaction names nothing, so the landed state is all the end of the event finds. -/
theorem plainTransactionCompletes : Obligations.PlainTransactionCompletes := by
  intro s x hx hplain
  have hn : namesNothing s x = true := by
    rcases hplain with ⟨hw, hb⟩ | ⟨hr, hb | ⟨j, w, hb, hidle⟩⟩
    · by_cases hbe : x.be = 0
      · exact namesNothing_of_nothing (handOver_noLane hw hbe)
      · have ho := handOver_write (s := s) hw hbe
        rcases hb with hb | hb | ⟨j, w, hb⟩
        · exact absurd hb hbe
        · rw [hb] at ho
          exact namesNothing_of_nothing ho
        · rw [hb] at ho
          exact namesNothing_of_nothing ho
    · exact namesNothing_of_nothing ((handOver_read hr).trans (handOver_read_nothing hb))
    · have ho := handOver_read (s := s) hr
      rw [hb] at ho
      exact namesNothing_of_report (j := j) (w := w) ho (consumes_false hidle)
  have hl : (s.landed x).handOn x = s.landed x := handOn_namesNothing (by rw [namesNothing_landed, hn])
  have he : exec .hostTransactionComplete s = .next (s.landed x).settleBus := by
    show Host.Outcome.next (s.completeHost namesNothing) = _
    rw [completeHost_names hx hn, hl]
  exact ⟨_, he, settleBus_mem _, settleBus_hostReply _, settleBus_sameBlocks (landed_sameBlocks x),
    settleBus_sameMirror rfl⟩

/-- Settles O13. -/
theorem faultedHostRead : Obligations.FaultedHostRead := by
  intro s x hx hr
  refine ⟨State.settleBus { s.freePort with
      bus := { s.freePort.bus with hostReply := some { data := 0, busError := true } } }, ?_, settleBus_hostReply _,
    settleBus_sameBlocks (sameBlocks_update _ _ _), settleBus_sameMirror rfl, settleBus_mem _⟩
  show Host.Outcome.next s.hostFault = _
  simp [State.hostFault, hx, hr]

/-- Settles O9. -/
theorem powerOnResetStarts : Obligations.PowerOnResetStarts := fun s =>
  ⟨s.powerOn, rfl, rfl, rfl, rfl, rfl, fun f => ⟨vget_replicate f _, vget_replicate f _, vget_replicate f _⟩,
    fun g => vget_replicate g _, rfl, rfl, rfl, fun i => vget_replicate i _,
    fun n => vget_map Circuit.powerOn s.circuits n, rfl⟩

/-! ### The write list (R18) -/

theorem listJoin_new {off : Nat} (be : BitVec 4) (d : Word32) {l : List ListedWord} (h : ∀ w ∈ l, w.off ≠ off) :
    listJoin off be d l = l ++ [{ off := off, be := be, data := d }] := by
  induction l with
  | nil => rfl
  | cons w ws ih =>
    simp only [List.forall_mem_cons] at h
    simp [listJoin, h.1, ih h.2]

theorem listJoin_listed {off : Nat} (be : BitVec 4) (d : Word32) {a b : List ListedWord} {w : ListedWord}
    (hw : w.off = off) (ha : ∀ v ∈ a, v.off ≠ off) :
    listJoin off be d (a ++ w :: b) =
      a ++ { off := off, be := w.be ||| be, data := mergeLanes w.data d be } :: b := by
  induction a with
  | nil => simp [listJoin, hw]
  | cons v vs ih =>
    simp only [List.forall_mem_cons] at ha
    simp [listJoin, ha.1, ih ha.2]

/-- The addresses listed afterwards: the same ones, with the new one at the end if it was not there. -/
theorem listJoin_offs (off : Nat) (be : BitVec 4) (d : Word32) (l : List ListedWord) :
    (listJoin off be d l).map ListedWord.off =
      if off ∈ l.map ListedWord.off then l.map ListedWord.off else l.map ListedWord.off ++ [off] := by
  induction l with
  | nil => rfl
  | cons w ws ih =>
    unfold listJoin
    by_cases hw : w.off = off
    · simp [hw]
    · simp only [hw, if_false, List.map_cons, ih, List.mem_cons, Ne.symm hw, false_or]
      split <;> rfl

theorem listJoin_nodup {off : Nat} (be : BitVec 4) (d : Word32) {l : List ListedWord}
    (h : (l.map ListedWord.off).Nodup) : ((listJoin off be d l).map ListedWord.off).Nodup := by
  rw [listJoin_offs]
  split
  · exact h
  · rename_i hn
    exact List.nodup_append.2 ⟨h, List.nodup_singleton _, fun a ha b hb => by
      rw [List.mem_singleton] at hb; rintro rfl; exact hn (hb ▸ ha)⟩

/-- The lanes of a word made of four bytes (R168). -/
theorem wordByte_wordOf (b0 b1 b2 b3 : Byte) {i : Nat} (h : i < 4) :
    wordByte (wordOf b0 b1 b2 b3) i = [b0, b1, b2, b3].getD i 0 := by
  ext j hj
  simp only [wordByte, wordOf, BitVec.getElem_extractLsb', BitVec.getLsbD_append]
  obtain rfl | rfl | rfl | rfl : i = 0 ∨ i = 1 ∨ i = 2 ∨ i = 3 := by omega
  · simp [hj]
  · simp [hj, show ¬ 8 + j < 8 by omega]
  · simp [hj, show ¬ 16 + j < 8 by omega, show ¬ 16 + j - 8 < 8 by omega, show 16 + j - 8 - 8 = j by omega]
  · simp [hj, show ¬ 24 + j < 8 by omega, show ¬ 24 + j - 8 < 8 by omega, show ¬ 24 + j - 8 - 8 < 8 by omega,
      show 24 + j - 8 - 8 - 8 = j by omega]

theorem wordByte_mergeLanes (old new : Word32) (be : BitVec 4) {i : Nat} (h : i < 4) :
    wordByte (mergeLanes old new be) i = if be.getLsbD i then wordByte new i else wordByte old i := by
  rw [mergeLanes, wordByte_wordOf _ _ _ _ h]
  obtain rfl | rfl | rfl | rfl : i = 0 ∨ i = 1 ∨ i = 2 ∨ i = 3 := by omega
  all_goals rfl

/-- Settles O58. -/
theorem listedWordCompletes : Obligations.ListedWordCompletes := by
  refine ⟨fun s x o hp => ⟨State.settleBus { s.freePort with mem := memApply s.mem x }, ?_, settleBus_mem _,
    settleBus_sameBlocks (sameBlocks_update _ _ _), settleBus_sameMirror rfl⟩,
    fun s off be d => ⟨rfl, listJoin_new be d, ?_, listJoin_nodup be d, fun old i h => wordByte_mergeLanes old d be h⟩⟩
  · show Host.Outcome.next s.listComplete = _
    simp [State.listComplete, hp]
  · intro a w b hl hw ha
    show listJoin off be d s.mirror.writeList = _
    rw [hl, listJoin_listed be d hw ha]

end
end Sys2Proof.Machine
end

section
namespace Sys2Proof.Machine

/-! ### The round robin and the grant (R10, R11) -/

section
variable {s t : State}

theorem mem_orderAfter (p i : Internal) : i ∈ orderAfter p := by
  cases p with
  | fetcher n => cases i with
    | fetcher m => revert n m; decide
    | writer => revert n; decide
    | mirror => revert n; decide
  | writer => cases i with
    | fetcher m => revert m; decide
    | writer => decide
    | mirror => decide
  | mirror => cases i with
    | fetcher m => revert m; decide
    | writer => decide
    | mirror => decide

/-- The order of choice is the order of the places after the pointer (R11). -/
theorem orderAfter_sorted (p : Internal) :
    (orderAfter p).Pairwise fun i j => Internal.turn p i ≤ Internal.turn p j := by
  cases p with
  | fetcher n => revert n; decide
  | writer => decide
  | mirror => decide

/-- The search in a sorted list finds a first one. -/
theorem find_first {α : Type} {R : α → α → Prop} {P : α → Bool} {l : List α} {i j : α} (hrefl : R i i)
    (hs : l.Pairwise R) (hj : l.find? P = some j) (hi : i ∈ l) (hP : P i = true) : R j i := by
  obtain ⟨-, as, bs, rfl, has⟩ := List.find?_eq_some_iff_append.1 hj
  rcases List.mem_append.1 hi with hi | hi
  · have hn := has i hi
    simp [hP] at hn
  · rcases List.mem_cons.1 hi with rfl | hi
    · exact hrefl
    · exact List.rel_of_pairwise_cons (List.pairwise_append.1 hs).2.1 hi

/-- The round robin names a waiting requester, and no waiting one comes before it (R11). -/
theorem roundRobin_waits {i : Internal} (hi : s.waits i = true) :
    ∃ j, (orderAfter s.bus.rr).find? s.waits = some j ∧ s.waits j = true ∧
      Internal.turn s.bus.rr j ≤ Internal.turn s.bus.rr i := by
  cases hj : (orderAfter s.bus.rr).find? s.waits with
  | none => exact absurd hi (List.find?_eq_none.1 hj i (mem_orderAfter _ i))
  | some j => exact ⟨j, rfl, List.find?_some hj,
      find_first (R := fun i j => Internal.turn s.bus.rr i ≤ Internal.turn s.bus.rr j) (Nat.le_refl _)
        (orderAfter_sorted _) hj (mem_orderAfter _ i) hi⟩

theorem roundRobin_none (h : ∀ i, s.waits i = false) : (orderAfter s.bus.rr).find? s.waits = none := by
  simp [List.find?_eq_none, h]

/-- With RESET released and the port free the arbiter grants by the host's request and the round robin's choice. -/
theorem grant_free (hr : s.bus.resetAsserted = false) (hp : s.bus.port = none) :
    s.grant = match s.bus.hostWaiting, (orderAfter s.bus.rr).find? s.waits with
      | none, none => s
      | none, some i => s.grantInternal i
      | some t, none => s.grantHost t 0
      | some t, some i => if s.bus.streak < 8 then s.grantHost t (s.bus.streak + 1) else s.grantInternal i := by
  unfold State.grant
  exact if_neg (by simp [hr, hp])

/-- The internal requester's turn: the host does not wait, or its streak has run out (R10). -/
theorem grant_internal (hr : s.bus.resetAsserted = false) (hp : s.bus.port = none) {j : Internal}
    (hj : (orderAfter s.bus.rr).find? s.waits = some j) (hh : s.bus.hostWaiting = none ∨ 8 ≤ s.bus.streak) :
    s.grant = s.grantInternal j := by
  rw [grant_free hr hp, hj]
  cases hw : s.bus.hostWaiting with
  | none => rfl
  | some x =>
    have : ¬ s.bus.streak < 8 := by
      rcases hh with hh | hh
      · simp [hw] at hh
      · omega
    simp [this]

/-- The next word of each internal requester is what its grant puts at the port (R9). -/
theorem grantInternal_fetcher {n : Circ} {f : Fetch} (hf : (s.circ n).ftc.fetch = some f) :
    (s.grantInternal (.fetcher n)).bus.port = some
      { by_ := .fetcher n, txn := readTxn (f.base + f.off + f.bytes.length), orphan := false } := by
  have hf' : (State.circ { s with bus := { s.bus with rr := .fetcher n, streak := 0 } } n).ftc.fetch = some f := hf
  simp only [State.grantInternal, State.grantFetch, hf']
  rfl

theorem grantInternal_writer {j : RecordJob} {w : Win} (hj : s.writer.rec_ = some j) (hw : s.applied.ring = some w) :
    (s.grantInternal .writer).bus.port = some
      { by_ := .writer, txn := writeTxn (w.base + 16 * j.slot + 4 * j.done) 0xF (j.words.getD j.done 0),
        orphan := false } := by
  simp only [State.grantInternal, State.grantRecord, hj, hw]
  rfl

theorem grantInternal_list {w : ListedWord} {ws : List ListedWord} (hr : s.mirror.req = some .list)
    (hl : s.mirror.writeList = w :: ws) :
    (s.grantInternal .mirror).bus.port = some
      { by_ := .mirror .list, txn := writeTxn (s.page + w.off) w.be w.data, orphan := false } ∧
    (s.grantInternal .mirror).mirror.writeList = ws := by
  simp only [State.grantInternal, State.grantMirror, hr, hl]
  exact ⟨rfl, rfl⟩

theorem grantInternal_snap {j : SnapJob} (hr : s.mirror.req = some .snap) (hj : s.mirror.snap = some j) :
    (s.grantInternal .mirror).bus.port = some
      { by_ := .mirror .snap, txn := writeTxn (s.page + snapOffset j.next) 0xF (j.words.getD j.next 0),
        orphan := false } := by
  simp only [State.grantInternal, State.grantMirror, hr, hj]
  rfl

theorem grantInternal_load {j : LoadJob} (hr : s.mirror.req = some .load) (hj : s.mirror.load = some j) :
    (s.grantInternal .mirror).bus.port = some
      { by_ := .mirror .load, txn := readTxn (s.page + j.next), orphan := false } := by
  simp only [State.grantInternal, State.grantMirror, hr, hj]
  rfl

/-- Settles O14: by who waits, the grant is to the host or to the requester the round robin finds. -/
theorem arbiterFollowsTheStreak : Obligations.ArbiterFollowsTheStreak := by
  intro s hr hp
  refine ⟨fun hw hn => ?_, fun x hw hn => ?_, fun x i hw hi hs => ?_, fun i hi hh => ?_⟩
  · rw [grant_free hr hp, hw, roundRobin_none hn]
  · rw [grant_free hr hp, hw, roundRobin_none hn]
    exact ⟨rfl, rfl⟩
  · obtain ⟨j, hj, -, -⟩ := roundRobin_waits hi
    rw [grant_free hr hp, hw, hj]
    simp only [hs, if_true]
    exact ⟨rfl, rfl, rfl⟩
  · obtain ⟨j, hj, hwj, hturn⟩ := roundRobin_waits hi
    have hg := grantInternal_internalGrant hp j
    have hrr : (s.grantInternal j).bus.rr = j := hg.rr
    rw [grant_internal hr hp hj hh, hrr]
    refine ⟨hg.hostWaiting, hg.streak, hwj, hturn, ?_, ?_, ?_, ?_, ?_⟩
    · rintro n f rfl hf; exact grantInternal_fetcher hf
    · rintro r w rfl hj hw; exact grantInternal_writer hj hw
    · rintro w ws rfl hq hl; exact grantInternal_list hq hl
    · rintro k rfl hq hk; exact grantInternal_snap hq hk
    · rintro k rfl hq hk; exact grantInternal_load hq hk

/-! ### The host's request and the release of RESET (R9, R13, R14) -/

/-- Nothing held on the host side is accepted while a request waits, is in flight, or RESET is asserted. -/
theorem acceptHost_still (h : s.bus.hostHeld = none ∨ s.bus.resetAsserted = true ∨ s.bus.hostWaiting.isSome = true ∨
    s.hostTxn.isSome = true) : s.acceptHost = s := by
  unfold State.acceptHost
  split
  · rfl
  · rename_i x hx
    rw [if_pos]
    simpa [hx, or_assoc] using h

theorem grant_busy (h : s.bus.resetAsserted = true ∨ s.bus.port.isSome = true) : s.grant = s := by
  rw [State.grant, if_pos (by simpa using h)]

theorem settleBus_bus_still (ha : s.acceptHost = s) (h : s.bus.resetAsserted = true ∨ s.bus.port.isSome = true) :
    s.settleBus.bus = s.bus := by
  rw [State.settleBus, ha, grant_busy (by rw [placeMirror_bus]; exact h), placeMirror_bus]

/-- A waiting host request takes a free port while the streak is below 8 (R10). -/
theorem grant_host {x : Txn} (hr : s.bus.resetAsserted = false) (hp : s.bus.port = none)
    (hw : s.bus.hostWaiting = some x) (hs : s.bus.streak < 8) : ∃ k, s.grant = s.grantHost x k := by
  rw [grant_free hr hp, hw]
  cases (orderAfter s.bus.rr).find? s.waits with
  | none => exact ⟨0, rfl⟩
  | some i => exact ⟨s.bus.streak + 1, by simp [hs]⟩

theorem settleBus_host {x : Txn} (hr : s.bus.resetAsserted = false) (hp : s.bus.port = none)
    (hw : s.bus.hostWaiting = some x) (hs : s.bus.streak < 8) :
    (∃ k, s.settleBus.bus = { s.bus with
      port := some { by_ := .host, txn := x, orphan := false }, hostWaiting := none, streak := k }) ∧
    s.settleBus.mirror = s.placeMirror.mirror := by
  have hb := placeMirror_bus (s := s)
  obtain ⟨k, hk⟩ := grant_host (s := s.placeMirror) (by rw [hb]; exact hr) (by rw [hb]; exact hp)
    (by rw [hb]; exact hw) (by rw [hb]; exact hs)
  rw [State.settleBus, acceptHost_still (.inr (.inr (.inl (by simp [hw])))), hk]
  exact ⟨⟨k, by simp only [State.grantHost, State.occupy, hb]⟩, rfl⟩

/-- Settles O12: the request presented takes a free port, and waits or is held where the port is not to be had. -/
theorem hostRequestIsAccepted : Obligations.HostRequestIsAccepted := by
  intro s x
  have hexec : s.bus.hostWaiting = none → s.bus.hostHeld = none →
      exec (.hostRequest x) s =
        .next (State.settleBus { s with bus := s.bus.presented s.hostTxn.isSome x }) := by
    intro hw hh
    show Host.Outcome.next (s.present x) = _
    rw [State.present, if_neg (by simp [hw, hh])]
  have same : ∀ b : Bus, s.SameBlocks (State.settleBus { s with bus := b }) ∧
      s.SameMirror (State.settleBus { s with bus := b }) ∧ (State.settleBus { s with bus := b }).mem = s.mem := fun b =>
    ⟨settleBus_sameBlocks (sameBlocks_update _ _ _), settleBus_sameMirror rfl, settleBus_mem _⟩
  refine ⟨fun hn => ?_, fun hw hh hr hp hs => ⟨_, hexec hw hh, ?_⟩, fun hw hh hx hbusy => ⟨_, hexec hw hh, ?_, same _⟩,
    fun y hw hh hx => ⟨_, hexec hw hh, ?_, same _⟩⟩
  · show Host.Outcome.next (s.present x) = _
    rw [State.present, if_pos (by simpa [Option.isSome_iff_ne_none] using hn)]
  · rw [hostTxn_of_port_none hp]
    obtain ⟨⟨k, hb⟩, -⟩ := settleBus_host (s := { s with bus := s.bus.presented false x }) (x := x) hr hp rfl hs
    refine ⟨?_, ?_, ?_, same _⟩ <;> simp only [Option.isSome_none, hb]
    exact hh
  · rw [hx]
    exact settleBus_bus_still (acceptHost_still (.inl hh)) hbusy
  · obtain ⟨o, hp⟩ := port_of_hostTxn hx
    rw [hx]
    refine settleBus_bus_still (acceptHost_still (.inr (.inr (.inr ?_)))) (.inr ?_)
    · exact Option.isSome_iff_exists.2 ⟨y, (hostTxn_congr (by rfl)).trans hx⟩
    · exact Option.isSome_iff_exists.2 ⟨_, hp⟩

/-- The Mirror with a listed word and no request in place places one for it (R18). -/
theorem placeMirror_list {w : ListedWord} {ws : List ListedWord} (hl : s.mirror.writeList = w :: ws)
    (hq : s.mirror.req = none) (hp : s.bus.port = none) (hr : s.bus.resetAsserted = false) :
    s.placeMirror = { s with mirror := { s.mirror with req := some .list } } := by
  rw [State.placeMirror, if_neg (by simp [hq, hr, State.mirrorInFlight, hp])]
  simp [State.mirrorWork, hl]

/-- Only the Mirror waits, so it has the next turn. -/
theorem roundRobin_only {i : Internal} (hi : s.waits i = true) (hn : ∀ j, j ≠ i → s.waits j = false) :
    (orderAfter s.bus.rr).find? s.waits = some i := by
  obtain ⟨j, hj, hw, -⟩ := roundRobin_waits hi
  by_cases hji : j = i
  · rw [hj, hji]
  · simp [hn j hji] at hw

/-- A listed word whose request is placed takes the port when nothing else waits for it (R10, R18). -/
theorem grant_list_alone {w : ListedWord} {ws : List ListedWord} (hl : s.mirror.writeList = w :: ws)
    (hq : s.mirror.req = some .list) (hp : s.bus.port = none) (hr : s.bus.resetAsserted = false)
    (hw : s.bus.hostWaiting = none) (hrec : s.writer.rec_ = none) (hfetch : ∀ n, (s.circ n).ftc.fetch = none) :
    s.grant.mirror.writeList = ws ∧ s.grant.bus.port = some
      { by_ := .mirror .list, txn := writeTxn (s.page + w.off) w.be w.data, orphan := false } := by
  have honly : ∀ j, j ≠ Internal.mirror → s.waits j = false := by
    intro j hj
    cases j with
    | fetcher n => exact congrArg Option.isSome (hfetch n)
    | writer => exact congrArg Option.isSome hrec
    | mirror => exact absurd rfl hj
  have hturn := roundRobin_only (i := .mirror) (congrArg Option.isSome hq) honly
  rw [grant_internal hr hp hturn (.inl hw)]
  exact (grantInternal_list hq hl).symm

theorem settleBus_list_alone {w : ListedWord} {ws : List ListedWord} (hl : s.mirror.writeList = w :: ws)
    (hq : s.mirror.req = none) (hp : s.bus.port = none) (hr : s.bus.resetAsserted = false)
    (hw : s.bus.hostWaiting = none) (hh : s.bus.hostHeld = none) (hrec : s.writer.rec_ = none)
    (hfetch : ∀ n, (s.circ n).ftc.fetch = none) :
    s.settleBus.mirror.writeList = ws ∧ s.settleBus.bus.port = some
      { by_ := .mirror .list, txn := writeTxn (s.page + w.off) w.be w.data, orphan := false } := by
  rw [State.settleBus, acceptHost_still (.inl hh), placeMirror_list hl hq hp hr]
  exact grant_list_alone (s := { s with mirror := { s.mirror with req := some .list } }) hl rfl hp hr hw hrec hfetch

/-- The start at the release of RESET, before the end of the event: the straps latched, and the page load begun or the
start-up acknowledgement listed (R13, R31, R32). -/
def State.startUp (s : State) (page : BitVec 2) (load : Bool) : State :=
  { s with
    bus := { s.bus with resetAsserted := false, page := page, loadStrap := load }
    mirror := if load then { s.mirror with load := some { next := 0, nonzero := [] } }
      else { s.mirror with writeList := listJoin 0 0b1110 0xFF000000 s.mirror.writeList } }

theorem release_eq (h : s.bus.resetAsserted = true) (page : BitVec 2) (load : Bool) :
    s.release page load = (s.startUp page load).settleBus := by
  rw [State.release, if_pos h]
  cases load <;> rfl

/-- Settles O11: the straps are latched by the start, and the end of the event leaves them alone and grants. -/
theorem releaseLatchesStraps : Obligations.ReleaseLatchesStraps := by
  intro s p l
  refine ⟨fun hr => ?_, fun hr => ⟨(s.startUp p l).settleBus, ?_, settleBus_page, settleBus_loadStrap,
    settleBus_resetAsserted, settleBus_sameBlocks (sameBlocks_update _ _ _), settleBus_mem _,
    ?_, ?_, fun x hw hp hs => ?_, fun hl hlist hq hp hs => ?_⟩⟩
  · show Host.Outcome.next (s.release p l) = _
    simp [State.release, hr]
  · show Host.Outcome.next (s.release p l) = _
    rw [release_eq hr]
  · rw [settleBus_staging]
    cases l <;> rfl
  · rw [settleBus_load]
    cases l <;> rfl
  · obtain ⟨⟨k, hb⟩, -⟩ := settleBus_host (s := s.startUp p l) rfl hp hw (by show s.bus.streak < 8; omega)
    exact ⟨by rw [hb], by rw [hb]⟩
  · subst hl
    have hv : (s.startUp p false).mirror.writeList = [{ off := 0, be := 0b1110, data := 0xFF000000 }] := by
      show listJoin _ _ _ s.mirror.writeList = _
      rw [hlist]; rfl
    have hm := placeMirror_list hv hq hp rfl
    refine ⟨fun x hw => ?_, fun hw hh hrec hfetch => ?_⟩
    · have hb := (settleBus_host (s := s.startUp p false) rfl hp hw (by show s.bus.streak < 8; omega)).2
      rw [hb, hm]
      exact ⟨hv, rfl⟩
    · obtain ⟨h1, h2⟩ := settleBus_list_alone hv hq hp rfl hw hh hrec hfetch
      have hpage : (s.startUp p false).page = pageBase p := rfl
      rw [hpage, Nat.add_zero] at h2
      exact ⟨h1, h2⟩

end
end Sys2Proof.Machine
end

section
namespace Sys2Proof.Machine

/-! ### The Report Writer goes on with its queue (R159, R160, R162) -/

section
variable {s t : State}

/-- t is s but for the Report Writer and the Control Mirror. -/
def ReportsOnly (s t : State) : Prop := t = { s with writer := t.writer, mirror := t.mirror }

theorem ReportsOnly.trans {u : State} (h : ReportsOnly s t) (k : ReportsOnly t u) : ReportsOnly s u := by
  unfold ReportsOnly at h k ⊢
  rw [k, h]

theorem resetSettled_only : ReportsOnly s s.resetSettled := by
  unfold State.resetSettled
  split <;> rfl

theorem dropReport_only (r : Report) : ReportsOnly s (s.dropReport r) := by
  have h : ReportsOnly s (s.setWriter { s.writer with lost := satInc 65535 s.writer.lost }) := rfl
  simp only [State.dropReport]
  split
  · exact h.trans resetSettled_only
  · exact h

theorem beginReport_only (r : Report) : ReportsOnly s (s.beginReport r) := by
  unfold State.beginReport
  split
  · rfl
  · exact dropReport_only r

theorem beginQueued_only (l : List Report) : ReportsOnly s (s.beginQueued l) := by
  induction l generalizing s with
  | nil => rfl
  | cons r rs ih =>
    unfold State.beginQueued
    split
    · rfl
    · have h : ReportsOnly s (s.setWriter { s.writer with queue := rs }) := rfl
      exact h.trans ((beginReport_only r).trans ih)

theorem recordVisible_only (j : RecordJob) : ReportsOnly s (s.recordVisible j) := by
  have h : ∀ w, ReportsOnly s (s.setWriter w) := fun _ => rfl
  simp only [State.recordVisible]
  split
  · exact (h _).trans resetSettled_only
  · exact h _

theorem recordWord_only : ReportsOnly s s.recordWord := by
  unfold State.recordWord
  (repeat' split)
  · rfl
  · rfl
  · exact (recordVisible_only _).trans (beginQueued_only _)

theorem pumpReports_still (h : s.writer.rec_ ≠ none ∨ s.writer.queue = []) : s.pumpReports = s := by
  unfold State.pumpReports
  cases hq : s.writer.queue with
  | nil => rfl
  | cons r rs =>
    have hr : s.writer.rec_.isSome = true := by
      rcases h with h | h
      · exact Option.isSome_iff_ne_none.2 h
      · rw [hq] at h; cases h
    rw [State.beginQueued, if_pos hr]

/-- The oldest queued report leaves the queue and is begun, and the Writer goes on with the rest. -/
theorem pumpReports_cons {r : Report} {rs : List Report} (hr : s.writer.rec_ = none) (hq : s.writer.queue = r :: rs) :
    s.pumpReports = ((s.setWriter { s.writer with queue := rs }).beginReport r).beginQueued rs := by
  rw [State.pumpReports, hq, State.beginQueued, if_neg (by simp [hr])]

theorem pumpReports_open {r : Report} {rs : List Report} (hr : s.writer.rec_ = none) (hq : s.writer.queue = r :: rs)
    (ho : s.ringOpen = true) : s.pumpReports = s.setWriter { s.writer with
      rec_ := some
        { slot := s.writer.tail, words := composeRecord r (s.flagged r.kind) s.writer.lost, flag := s.flagged r.kind,
          done := 0, isReset := r.kind == .resetDone }
      queue := rs, lost := 0 } := by
  have ho' : (s.setWriter { s.writer with queue := rs }).ringOpen = true := ho
  rw [pumpReports_cons hr hq, State.beginReport, if_pos ho']
  cases rs <;> rfl

theorem pumpReports_shut {r : Report} {rs : List Report} (hr : s.writer.rec_ = none) (hq : s.writer.queue = r :: rs)
    (ho : s.ringOpen = false) (hk : r.kind ≠ .resetDone) : s.pumpReports =
      (s.setWriter { s.writer with queue := rs, lost := satInc 65535 s.writer.lost }).pumpReports := by
  have ho' : ¬ (s.setWriter { s.writer with queue := rs }).ringOpen = true := by
    rw [show (s.setWriter { s.writer with queue := rs }).ringOpen = s.ringOpen from rfl, ho]
    decide
  rw [pumpReports_cons hr hq, State.beginReport, if_neg ho', State.dropReport, if_neg (by simpa using hk)]
  rfl

/-! ### The completion of a word of the record (R9, R16, R34) -/

/-- s after memory has completed the part's own write x. -/
def State.written (s : State) (x : Txn) : State := { s.freePort with mem := memApply s.mem x }

theorem recordComplete_own {x : Txn} (hp : s.bus.port = some { by_ := .writer, txn := x, orphan := false }) :
    s.recordComplete = (s.written x).recordWord.settleBus := by
  simp only [State.recordComplete, hp]
  rfl

theorem recordComplete_orphan {x : Txn} (hp : s.bus.port = some { by_ := .writer, txn := x, orphan := true }) :
    s.recordComplete = (s.written x).settleBus := by
  simp only [State.recordComplete, hp]
  rfl

theorem recordWord_more {j : RecordJob} (hj : s.writer.rec_ = some j) (h : j.done < 3) :
    s.recordWord = s.setWriter { s.writer with rec_ := some { j with done := j.done + 1 } } := by
  rw [State.recordWord]
  simp only [hj]
  exact if_pos (by omega)

theorem recordWord_last {j : RecordJob} (hj : s.writer.rec_ = some j) (h : 3 ≤ j.done) :
    s.recordWord = (s.recordVisible j).pumpReports := by
  rw [State.recordWord]
  simp only [hj]
  exact if_neg (by omega)

/-- The record in writing stands at the tail, visible (R160). -/
def State.tailed (s : State) (j : RecordJob) : State := s.setWriter { s.writer with
  rec_ := none, tail := s.nextSlot s.writer.tail, count := s.writer.count + 1
  flags := s.writer.flags ++ [j.flag], attn := if j.flag then s.writer.attn + 1 else s.writer.attn }

theorem recordVisible_eq (j : RecordJob) :
    s.recordVisible j = if j.isReset then (s.tailed j).resetSettled else s.tailed j := rfl

/-- A visible record that is not of a waiting RESET_DONE lists nothing (R34). -/
theorem recordVisible_plain {j : RecordJob} (h : ¬ (j.isReset = true ∧ s.mirror.resetWait = true)) :
    s.recordVisible j = s.tailed j := by
  rw [recordVisible_eq]
  split
  · rename_i hj
    exact if_neg fun hw => h ⟨hj, hw⟩
  · rfl

/-- The visible record of RESET_DONE lists the 0 of the soft-reset byte (R34). -/
theorem recordVisible_reset {j : RecordJob} (hj : j.isReset = true) (hw : s.mirror.resetWait = true) :
    s.recordVisible j =
      { (s.tailed j).listBytes 4 0b0001 0 with
        mirror := { ((s.tailed j).listBytes 4 0b0001 0).mirror with resetWait := false } } := by
  rw [recordVisible_eq, if_pos hj]
  exact if_pos hw

theorem resetSettled_writer : s.resetSettled.writer = s.writer := by
  unfold State.resetSettled
  split <;> rfl

theorem recordVisible_writer (j : RecordJob) : (s.recordVisible j).writer = (s.tailed j).writer := by
  rw [recordVisible_eq]
  split
  · exact resetSettled_writer
  · rfl

/-- Settles O57: the word's completion by the number of words done, then the Writer's queue by its front. -/
theorem recordWordCompletes : Obligations.RecordWordCompletes := by
  refine ⟨fun s x j hp hj hd => ?_, fun s r rs => ⟨pumpReports_still, fun hr hq =>
    ⟨pumpReports_open hr hq, pumpReports_shut hr hq⟩⟩, fun s x => ⟨fun hp => ?_, fun j hp hj => ?_⟩⟩
  · have hlast : s.recordComplete = ((s.written x).recordVisible j).pumpReports.settleBus := by
      rw [recordComplete_own hp, recordWord_last (s := s.written x) hj hd]
    refine congrArg Host.Outcome.next (hlast.trans (congrArg (fun u : State => u.pumpReports.settleBus) ?_))
    by_cases h : j.isReset = true ∧ s.mirror.resetWait = true
    · rw [if_pos h]
      exact recordVisible_reset (s := s.written x) h.1 h.2
    · rw [if_neg h]
      exact recordVisible_plain (s := s.written x) h
  · exact ⟨_, congrArg Host.Outcome.next (recordComplete_orphan hp), settleBus_mem _,
      settleBus_sameBlocks (sameBlocks_update _ _ _), settleBus_sameMirror rfl⟩
  · have ho : ReportsOnly (s.written x) (s.written x).recordWord := recordWord_only
    refine ⟨_, congrArg Host.Outcome.next (recordComplete_own hp), ?_, ?_, ?_, ?_, fun hd => ?_, fun hd hq => ?_⟩
    · rw [settleBus_mem, ho]; rfl
    · rw [settleBus_stories, ho]; rfl
    · rw [settleBus_circuits, ho]; rfl
    · rw [settleBus_applied, ho]; rfl
    · rw [settleBus_writer, recordWord_more (s := s.written x) hj hd]
      rfl
    · have hw := recordVisible_writer (s := s.written x) j
      rw [settleBus_writer, recordWord_last (s := s.written x) hj hd, pumpReports_still (.inr (by rw [hw]; exact hq)), hw]
      rfl

end
end Sys2Proof.Machine
end

section
namespace Sys2Proof.Machine

/-! ### A write of the soft-reset byte (R16, R33, R34) -/

section
variable {s : State}

/-- The bytes beside the soft-reset byte in its word carry no request (R17). -/
theorem takeRequests_none {off : Nat} {l : List Nat} (h : ∀ i ∈ l, ∀ u : State, u.takeRequest (off + i) = u) :
    State.takeRequests off l s = s := by
  induction l generalizing s with
  | nil => rfl
  | cons i is ih =>
    rw [State.takeRequests, h i List.mem_cons_self]
    exact ih fun j hj => h j (List.mem_cons_of_mem _ hj)

theorem takeRequest_none {o : Nat} (h4 : o ≠ 4) (h8 : o ≠ 8) (hc : ¬ (0x0C ≤ o ∧ o < 0x14)) : s.takeRequest o = s := by
  simp only [State.takeRequest, if_neg h4, if_neg h8, dif_neg hc]

theorem lanesOf_zero {be : BitVec 4} (h : be.getLsbD 0 = true) :
    ∃ l, lanesOf be = 0 :: l ∧ ∀ i ∈ l, 1 ≤ i ∧ i < 4 := by
  refine ⟨[1, 2, 3].filter fun i => be.getLsbD i, by simp [lanesOf, List.filter_cons, h], fun i hi => ?_⟩
  have := List.mem_of_mem_filter hi
  simp at this
  omega

/-- A write of the page word at offset 4 carries the soft-reset request alone (R17, R33). -/
theorem pageWrite_reset {be : BitVec 4} {d : Word32} (h : be.getLsbD 0 = true)
    (hwf : Memory.wf s.mirror.staging = true) :
    s.pageWrite 4 be d = (s.stageWrite 4 be d).resetRequest (wordByte d 0) := by
  obtain ⟨l, hl, hlanes⟩ := lanesOf_zero h
  have hv : staged8 (s.stageWrite 4 be d).mirror.staging 4 = wordByte d 0 := by
    have hr := memRead_memWriteLanes hwf 4 d (lanesOf be) 4
    rw [if_pos (by simp [hl])] at hr
    exact hr
  have hrest : ∀ i ∈ l, ∀ u : State, u.takeRequest (4 + i) = u := fun i hi u =>
    have := hlanes i hi
    takeRequest_none (by omega) (by omega) (by omega)
  have hreq : (s.stageWrite 4 be d).takeRequest (4 + 0) = (s.stageWrite 4 be d).resetRequest (wordByte d 0) := by
    rw [← hv]; rfl
  simp only [State.pageWrite, hl, State.takeRequests, hreq]
  rw [takeRequests_none hrest]
  rfl

theorem namesPage_of {x : Txn} {off : Nat} (h : s.PageWriteAt x off) : namesPage s x = true := by
  simp only [namesPage, State.pageOff, handOver_of_pageWriteAt h, Option.isSome_some]

theorem namesReset_of {x : Txn} (h : s.PageWriteAt x 4) (hb : x.be.getLsbD 0 = true) (hv : wordByte x.data 0 = 1) :
    namesReset s x = true := by
  simp [namesReset, carries, State.pageOff, handOver_of_pageWriteAt h, hb, hv]

/-- The hand-over of a page write (R6). -/
theorem handOn_pageWriteAt {x : Txn} {off : Nat} (h : s.PageWriteAt x off) :
    (s.landed x).handOn x = (s.landed x).pageWrite off x.be x.data :=
  handOn_page (by rw [handOver_landed]; exact handOver_of_pageWriteAt h)

/-- The state after a soft reset, with RESET_DONE posted and before any part is examined (R33, R34). -/
def State.resetPosted (s : State) : State :=
  State.post { s.emptied with mirror := { s.mirror with resetWait := true } } (resetReport s.liveCount s.queuedCount)

theorem softReset_eq (s : State) : s.softReset =
    if s.resetPosted.mirror.applyPending then s.resetPosted.tryParts.applyCheck else s.resetPosted := rfl

/-- The emptied Writer begins its first report at once. -/
theorem resetPosted_begin : s.resetPosted =
    State.beginReport { s.emptied with mirror := { s.mirror with resetWait := true } }
      (resetReport s.liveCount s.queuedCount) := rfl

/-- With the ring shut RESET_DONE is dropped and counted, and the request byte is written back at once (R34, R162). -/
theorem resetPosted_shut (h : s.applied.ring = none) : s.resetPosted =
    { s.emptied with
      writer := { Writer.start with lost := 1 }
      mirror := { s.mirror with writeList := listJoin 4 0b0001 0 s.mirror.writeList, resetWait := false } } := by
  have ho : ¬ State.ringOpen { s.emptied with mirror := { s.mirror with resetWait := true } } = true := by
    simp [State.ringOpen, State.emptied, h]
  rw [resetPosted_begin, State.beginReport, if_neg ho]
  rfl

/-- With a ring applied RESET_DONE is the record in writing (R34, R159). -/
theorem resetPosted_open {w : Win} (h : s.applied.ring = some w) : s.resetPosted =
    { s.emptied with
      mirror := { s.mirror with resetWait := true }
      writer := { Writer.start with
        rec_ := some
          { slot := 0, words := composeRecord (resetReport s.liveCount s.queuedCount) (s.flagged .resetDone) 0,
            flag := s.flagged .resetDone, done := 0, isReset := true } } } := by
  have hpos := ringSlots_pos w.code
  have ho : State.ringOpen { s.emptied with mirror := { s.mirror with resetWait := true } } = true := by
    simp only [State.ringOpen, State.emptied, h]
    exact decide_eq_true (Nat.lt_of_lt_of_le (by decide) hpos)
  rw [resetPosted_begin, State.beginReport, if_pos ho]
  rfl

/-- RESET_DONE touches the Report Writer, the write list and the reset completion. -/
theorem resetPosted_frame (s : State) : ∃ w l b, s.resetPosted =
    { s.emptied with writer := w, mirror := { s.mirror with writeList := l, resetWait := b } } := by
  cases h : s.applied.ring with
  | none => exact ⟨_, _, _, resetPosted_shut h⟩
  | some w => exact ⟨_, _, _, resetPosted_open h⟩

theorem emptied_circ (n : Circ) : s.emptied.circ n = (s.circ n).softReset := vget_map _ _ _

/-- Settles O22: the request of the word is that of its first byte; RESET_DONE is posted by the emptied Writer. -/
theorem softResetEmpties : Obligations.SoftResetEmpties := by
  constructor
  · intro s x hx hb u
    have hpage : exec .controlPageWrite s = .next (State.settleBus (u.resetRequest (wordByte x.data 0))) := by
      refine congrArg Host.Outcome.next ((completeHost_names hx.port (namesPage_of hx)).trans ?_)
      rw [handOn_pageWriteAt hx, pageWrite_reset (s := s.landed x) hb hx.staging]
    rw [hpage]
    refine ⟨fun h2 => ?_, fun h0 => ?_⟩
    · have h0 : wordByte x.data 0 ≠ 0 := fun h => by rw [h] at h2; exact absurd h2 (by decide)
      have h1 : wordByte x.data 0 ≠ 1 := fun h => by rw [h] at h2; exact absurd h2 (by decide)
      rw [State.resetRequest, if_neg h0, if_neg h1]
      rfl
    · rw [State.resetRequest, if_pos h0]
  · intro s x hx hb hv emptied
    have hexec : exec .softReset s = .next ((s.landed x).stageWrite 4 x.be x.data).softReset.settleBus := by
      refine congrArg Host.Outcome.next ((completeHost_names hx.port (namesReset_of hx hb hv)).trans ?_)
      rw [handOn_pageWriteAt hx, pageWrite_reset (s := s.landed x) hb hx.staging, hv]
      rfl
    obtain ⟨w, l, b, hframe⟩ := resetPosted_frame ((s.landed x).stageWrite 4 x.be x.data)
    have hempty : emptied ((s.landed x).stageWrite 4 x.be x.data).resetPosted := by
      refine ⟨?_, ?_, ?_, ?_, ?_, ?_, ?_, ?_, ?_, ?_, fun f => ?_, fun g => ?_, ?_, ?_, ?_, fun i => ?_, fun n => ?_,
        fun hr => ?_, fun v hr => ?_⟩
      case refine_18 => rw [resetPosted_shut (by exact hr)]; exact ⟨rfl, rfl⟩
      case refine_19 => rw [resetPosted_open (by exact hr)]; exact ⟨rfl, rfl⟩
      all_goals rw [hframe]
      case refine_11 => exact ⟨vget_replicate f _, vget_replicate f _, vget_replicate f _⟩
      case refine_12 => exact vget_replicate g _
      case refine_16 => exact vget_replicate i _
      case refine_17 =>
        have hc := emptied_circ (s := (s.landed x).stageWrite 4 x.be x.data) n
        exact ⟨congrArg Circuit.sch hc, congrArg Circuit.snd hc, congrArg Circuit.ftc hc, congrArg Circuit.lu hc⟩
      all_goals rfl
    have hsettle : ∀ t, emptied t → emptied t.settleBus := by
      rintro t ⟨h1, hpage, h⟩
      obtain ⟨b', l', r', ht, hb'⟩ := settleBus_granted t
      rw [ht]
      exact ⟨h1, hb'.page.trans hpage, h⟩
    have hpend : ((s.landed x).stageWrite 4 x.be x.data).resetPosted.mirror.applyPending = s.mirror.applyPending := by
      rw [hframe]; rfl
    rw [hexec, softReset_eq, hpend]
    refine ⟨fun hp => ?_, fun hp => ?_⟩
    · rw [hp, if_neg Bool.false_ne_true]
      exact ⟨_, rfl, hsettle _ hempty⟩
    · rw [hp, if_pos rfl]
      exact ⟨_, hempty, rfl⟩

end
end Sys2Proof.Machine
end

section
namespace Sys2Proof.Machine

/-! ### The words of a fetch (R3, R9, R16, R145) -/

section
variable {s : State} {n : Circ}

/-- Nothing of the story memory and the bus moves when a word joins its fetch. -/
theorem fetchWord_mem (d : Word32) (fault : Bool) : (s.fetchWord n d fault).mem = s.mem :=
  congrArg (fun o => o.2.1) (outer_fetchWord s n d fault)

theorem fetchComplete_orphan {x : Txn} {fault : Bool}
    (hp : s.bus.port = some { by_ := .fetcher n, txn := x, orphan := true }) :
    s.fetchComplete fault = s.freePort.settleBus := by
  simp only [State.fetchComplete, hp]
  rfl

theorem fetchComplete_own {x : Txn} {fault : Bool}
    (hp : s.bus.port = some { by_ := .fetcher n, txn := x, orphan := false }) :
    s.fetchComplete fault = (s.freePort.fetchWord n (s.ownWord x fault) fault).settleBus := by
  simp only [State.fetchComplete, hp]
  rfl

/-- A fetch with one more word holds four more bytes. -/
theorem length_addWord (f : Fetch) (d : Word32) (fault : Bool) :
    (f.addWord d fault).bytes.length = f.bytes.length + 4 := by
  simp [Fetch.addWord, bytesOf]

theorem fetchWord_more {f : Fetch} {d : Word32} {fault : Bool} (hf : (s.circ n).ftc.fetch = some f)
    (h : f.bytes.length + 4 < 16) :
    s.fetchWord n d fault = s.updFtc n fun x => { x with fetch := some (f.addWord d fault) } := by
  simp only [State.fetchWord, hf, length_addWord]
  exact if_neg (by omega)

theorem fetchWord_last {f : Fetch} {d : Word32} {fault : Bool} (hf : (s.circ n).ftc.fetch = some f)
    (h : 16 ≤ f.bytes.length + 4) :
    s.fetchWord n d fault = (s.fetchDone n (f.addWord d fault)).settleLine n := by
  simp only [State.fetchWord, hf, length_addWord]
  exact if_pos h

/-! ### The completed fetch (R145, R154) -/

theorem tellFault_sound {f : Fetch} (h : f.fault = false) : s.tellFault n f = s := by
  simp only [State.tellFault, h]
  (repeat' split) <;> simp_all

theorem tellFault_post {f : Fetch} {t : Tag} {st : Story} (h : f.fault = true)
    (hi : (s.circ n).sch.item = some (.story t)) (hs : s.story t = some st) :
    s.tellFault n f = s.post (faultUnitReport n t st f) := by
  simp only [State.tellFault, Sched.tag, hi, hs, h, if_true]

/-- The unit that a completed fetch makes. -/
def Fetch.unit (f : Fetch) : LUnit := { off := f.off, start := f.start, lim := f.lim, data := f.bytes, lost := f.fault }

/-- Only the last unit held matters to a fetch that enters. -/
theorem addUnit_last (f : Fetch) (us : List LUnit) (u : LUnit) : addUnit f (us ++ [u]) = us ++ addUnit f [u] := by
  induction us with
  | nil => rfl
  | cons v vs ih =>
    obtain ⟨w, ws, hw⟩ := List.exists_cons_of_ne_nil (List.concat_ne_nil u vs)
    rw [List.cons_append, List.cons_append, ← ih, hw]
    rfl

theorem addUnit_behind {f : Fetch} {u : LUnit} (h : ¬ (u.off = f.off ∧ u.lost = false ∧ f.fault = false)) :
    addUnit f [u] = [u, f.unit] := if_neg h

theorem addUnit_joins {f : Fetch} {u : LUnit} (h : u.off = f.off ∧ u.lost = false ∧ f.fault = false) :
    addUnit f [u] = [{ u with lim := f.lim, data := u.data.take u.lim ++ f.bytes.drop u.lim }] := if_pos h

theorem addUnit_faulted {f : Fetch} (h : f.fault = true) (us : List LUnit) : addUnit f us = us ++ [f.unit] := by
  rcases us.eq_nil_or_concat with rfl | ⟨vs, u, rfl⟩
  · rfl
  · rw [List.concat_eq_append, addUnit_last, addUnit_behind (by simp [h]), List.append_assoc]
    rfl

/-! ### The read position at a lost unit (R154) -/

variable {e : TextEnv} {d : Sender} {u : LUnit}

theorem textStep_lost_held (k : Nat) (hl : lookAt d.readPos e.look = .lost u) (hend : d.readPos ≠ e.textEnd)
    (hlong : heldTooLong e.cfg.width d.held.length = false) (hh : d.held ≠ []) :
    textStep e (k + 1) d = (d.placeHeld e true, .ready) := by
  have he : d.held.isEmpty = false := by simpa using hh
  simp [textStep, he, hlong, hend, hl]

theorem textStep_lost_free (k : Nat) (hl : lookAt d.readPos e.look = .lost u) (hend : d.readPos ≠ e.textEnd)
    (hlong : heldTooLong e.cfg.width d.held.length = false) (hh : d.held = []) (hr : d.replayOver e.size = false) :
    textStep e (k + 1) d = ({ d with pend := 0, inDirective := false }, .lost u) := by
  have hlong' : heldTooLong e.cfg.width 0 = false := by simpa [hh] using hlong
  simp [textStep, hh, hlong', hend, hl, hr]

/-! ### Updates of one circuit -/

theorem onlyCirc_updSch (f : Sched → Sched) : s.OnlyCirc (s.updSch n f) n := by
  simp [State.OnlyCirc, State.updSch]

theorem onlyCirc_updSnd {t : State} (h : s.OnlyCirc t n) (f : Sender → Sender) : s.OnlyCirc (t.updSnd n f) n := by
  unfold State.OnlyCirc at h ⊢
  rw [h]
  simp [State.updSnd]

/-! ### The lost-copy line (R154) -/

theorem beginLost_onlyCirc (size : Nat) (u : LUnit) : s.OnlyCirc (s.beginLost n size u) n := by
  simp only [State.beginLost]
  split
  · exact onlyCirc_updSnd (onlyCirc_updSnd (onlyCirc_updSch _) _) _
  · exact onlyCirc_updSnd (onlyCirc_updSnd (onlyCirc_updSch _) _) _

theorem beginLost_lu (size : Nat) (u : LUnit) : ((s.beginLost n size u).circ n).lu = (s.circ n).lu := by
  simp only [State.beginLost, State.setPhase]
  split <;> simp

theorem beginLost_ftc (size : Nat) (u : LUnit) : ((s.beginLost n size u).circ n).ftc = (s.circ n).ftc := by
  simp only [State.beginLost, State.setPhase]
  split <;> simp

theorem beginLost_snd (size : Nat) (u : LUnit) :
    ((s.beginLost n size u).circ n).snd = if (s.circ n).snd.column = 0
      then { (s.circ n).snd with nextUnsent := (u.off + u.lim) % size, svc := none, phase := .lostLine }
      else { (s.circ n).snd with
        nextUnsent := (u.off + u.lim) % size, svc := none, phase := .lostNewline
        plan := placeNewline (s.ccfg n).fill .lost } := by
  simp only [State.beginLost, State.setPhase, circ_updSnd_same, circ_updSch_same]
  split
  · simp
  · rw [circ_updSnd_same, circ_updSnd_same, circ_updSch_same]
    rfl

theorem askTurn_lost {t : Tag} {st : Story} (hi : (s.circ n).sch.item = some (.story t))
    (hp : (s.circ n).snd.phase = .text) (hs : s.story t = some st)
    (hr : textStep (s.textEnv n st) 128 (s.circ n).snd = (d, .lost u)) :
    s.askTurn n = ((s.afterRead n (s.fsize st.feed) d).beginLost n (s.fsize st.feed) u, true) := by
  simp only [State.askTurn, hi, hp, hs, hr]
  rfl

theorem nlNext_lost : (s.nlNext n .lost).circ n =
    { s.circ n with snd := { (s.circ n).snd with phase := .lostLine, svc := none } } := by
  simp [State.nlNext, State.setPhase]

theorem nlNext_lostLine (hp : (s.circ n).snd.phase = .lostLine) : s.nlNext n .svcLast = s.lostDone n := by
  simp only [State.nlNext, State.svcDone, hp]

theorem lostDone_circ : (s.lostDone n).circ n = { s.circ n with
    snd := { (s.circ n).snd with
      phase := .text, svc := none, readPos := (s.circ n).snd.nextUnsent, pend := 0
      origin := .text (s.circ n).snd.nextUnsent, originDir := (s.circ n).snd.inDirective }
    ftc := { (s.circ n).ftc with
      look := (pruneUnits (s.circ n).snd.nextUnsent (dropLost (s.circ n).ftc.look)).filter fun u =>
        !u.spent (s.circ n).snd.nextUnsent } } := by
  simp [State.lostDone, State.enterText]

theorem replayCheck_none (h : (s.circ n).snd.replay = none) : s.replayCheck n = s := by
  simp [State.replayCheck, Sender.replayOver, h]

/-- A word that ends before a lost unit makes a stop place only. -/
theorem complete_wordEnd_lost (hl : (s.circ n).atLost = true) (hr : (s.circ n).snd.replay = none) :
    s.complete n .wordEnd = s.lostTest n := by
  simp [State.complete, State.wordDone, replayCheck_none hr, hl]

/-- Settles O60: the words of a fetch, its completion by its fate, and the lost unit's way through the text. -/
theorem fetchedWordJoins : Obligations.FetchedWordJoins := by
  refine ⟨fun s x n fault => ⟨fun hp => ?_, fun f hp hf => ?_⟩, fun s n f => ⟨fun hk hf => ?_, fun t st hk hf hi hs => ?_,
    fun hk => ?_, fun t hk hi => ?_⟩, fun f us => ⟨fun h => ?_, fun u => ⟨fun h => ?_, fun ho hl hf => ?_⟩⟩,
    fun e d k u hl hend hlong => ⟨textStep_lost_held k hl hend hlong, textStep_lost_free k hl hend hlong⟩,
    fun s n => ⟨fun t st d u => askTurn_lost, fun size u => ⟨beginLost_snd size u, beginLost_onlyCirc size u,
      beginLost_lu size u, beginLost_ftc size u⟩, nlNext_lost, fun hp => ?_, fun hl hr => ⟨fun ho => ?_, fun ho => ?_⟩⟩⟩
  · exact ⟨_, congrArg Host.Outcome.next (fetchComplete_orphan hp), settleBus_mem _,
      settleBus_sameBlocks (sameBlocks_update _ _ _), settleBus_sameMirror rfl⟩
  · refine ⟨_, congrArg Host.Outcome.next (fetchComplete_own hp), ?_, fun h => ?_, fun h => ?_⟩
    · rw [settleBus_mem, fetchWord_mem]
      rfl
    · rw [fetchWord_more (s := s.freePort) hf h]
      simp only [settleBus_circ, settleBus_stories, settleBus_writer, circ_updFtc_same]
      exact ⟨rfl, rfl, rfl, rfl, fun m hm => circ_updFtc_ne s.freePort (Ne.symm hm) _, rfl, rfl⟩
    · exact congrArg State.settleBus (fetchWord_last (s := s.freePort) hf h)
  · simp only [State.fetchDone, hk, tellFault_sound hf]
  · have hi' : ((s.updFtc n fun x => { x with look := addUnit f x.look, fetch := none }).circ n).sch.item =
        some (.story t) := by rw [circ_updFtc_same]; exact hi
    simp only [State.fetchDone, hk]
    exact tellFault_post hf hi' hs
  · simp only [State.fetchDone, hk]
  · simp [State.fetchDone, hk, Sched.tag, hi]
  · rcases h with h | rfl
    · exact addUnit_faulted h us
    · rfl
  · rw [addUnit_last, addUnit_behind]
    · rfl
    · rintro ⟨ho, hl, -⟩
      rcases h with h | h
      · exact h ho
      · simp [hl] at h
  · rw [addUnit_last, addUnit_joins ⟨ho, hl, hf⟩]
  · rw [nlNext_lostLine hp, lostDone_circ]
    rfl
  · rw [complete_wordEnd_lost hl hr, State.lostTest, if_pos ho]
  · rw [complete_wordEnd_lost hl hr, State.lostTest, if_neg (by simp [ho])]

end
end Sys2Proof.Machine
end

section
namespace Sys2Proof.Machine

/-! ### What an apply leaves of the Mirror's own records

The generation last seen, the snapshot in writing with its count, the page load and the placed request are written only by
the operations that own them: one lemma for each operation that the start of an apply is made of. -/

/-- The Mirror's records that the taking of a part does not write. -/
structure Ledger where
  genSeen : Byte
  snap : Option SnapJob
  snapCount : Word32
  load : Option LoadJob
  req : Option MirrorWork

def State.ledger (s : State) : Ledger :=
  ⟨s.mirror.genSeen, s.mirror.snap, s.mirror.snapCount, s.mirror.load, s.mirror.req⟩

section
variable (s : State)

theorem ledger_load {s t : State} (h : t.ledger = s.ledger) : t.mirror.load = s.mirror.load :=
  congrArg Ledger.load h

/-! ### Record updates -/

@[simp] theorem ledger_mk_mirror (m : Mirror) (hg : m.genSeen = s.mirror.genSeen) (hs : m.snap = s.mirror.snap)
    (hc : m.snapCount = s.mirror.snapCount) (hl : m.load = s.mirror.load) (hr : m.req = s.mirror.req) :
    State.ledger { s with mirror := m } = s.ledger := by simp [State.ledger, hg, hs, hc, hl, hr]
@[simp] theorem ledger_mk_applied (a : Applied) : State.ledger { s with applied := a } = s.ledger := rfl
@[simp] theorem ledger_mk_intake (a : Vector FeedCtx 12) : State.ledger { s with intake := a } = s.ledger := rfl
@[simp] theorem ledger_mk_stories (a : Vector (Option Story) 96) : State.ledger { s with stories := a } = s.ledger := rfl
@[simp] theorem ledger_mk_admission (a : List Tag) : State.ledger { s with admission := a } = s.ledger := rfl
@[simp] theorem ledger_mk_feedLists (a : Vector (List Tag) 12) : State.ledger { s with feedLists := a } = s.ledger := rfl
@[simp] theorem ledger_mk_index (a : List IndexEntry) : State.ledger { s with index := a } = s.ledger := rfl
@[simp] theorem ledger_mk_history (a : List HistEntry) : State.ledger { s with history := a } = s.ledger := rfl
@[simp] theorem ledger_mk_accounts (a : Vector Account 12) : State.ledger { s with accounts := a } = s.ledger := rfl
@[simp] theorem ledger_mk_circuits (a : Vector Circuit 8) : State.ledger { s with circuits := a } = s.ledger := rfl
@[simp] theorem ledger_mk_pool (a : Vector (Option Notice) 32) : State.ledger { s with pool := a } = s.ledger := rfl
@[simp] theorem ledger_mk_writer (a : Writer) : State.ledger { s with writer := a } = s.ledger := rfl

/-- A fold of operations that each leave it alone. -/
@[simp] theorem ledger_foldl {α : Type} (f : State → α → State) (h : ∀ s a, (f s a).ledger = s.ledger) (l : List α) :
    (l.foldl f s).ledger = s.ledger := by
  induction l generalizing s with
  | nil => rfl
  | cons a l ih => rw [List.foldl_cons, ih, h]

/-! ### Writes of one piece -/

@[simp] theorem ledger_setCirc (n : Circ) (c : Circuit) : (s.setCirc n c).ledger = s.ledger := by
  simp [State.setCirc]
@[simp] theorem ledger_updLu (n : Circ) (f : LineUnit → LineUnit) : (s.updLu n f).ledger = s.ledger := by
  simp [State.updLu]
@[simp] theorem ledger_updSch (n : Circ) (f : Sched → Sched) : (s.updSch n f).ledger = s.ledger := by
  simp [State.updSch]
@[simp] theorem ledger_updSnd (n : Circ) (f : Sender → Sender) : (s.updSnd n f).ledger = s.ledger := by
  simp [State.updSnd]
@[simp] theorem ledger_updFtc (n : Circ) (f : Fetcher → Fetcher) : (s.updFtc n f).ledger = s.ledger := by
  simp [State.updFtc]
@[simp] theorem ledger_setFcfg (f : Feed) (c : FeedCfg) : (s.setFcfg f c).ledger = s.ledger := by
  simp [State.setFcfg]
@[simp] theorem ledger_setCtx (f : Feed) (c : FeedCtx) : (s.setCtx f c).ledger = s.ledger := by
  simp [State.setCtx]
@[simp] theorem ledger_setAcct (f : Feed) (a : Account) : (s.setAcct f a).ledger = s.ledger := by
  simp [State.setAcct]
@[simp] theorem ledger_setFlist (f : Feed) (l : List Tag) : (s.setFlist f l).ledger = s.ledger := by
  simp [State.setFlist]
@[simp] theorem ledger_setStory (t : Tag) (x : Option Story) : (s.setStory t x).ledger = s.ledger := by
  simp [State.setStory]
@[simp] theorem ledger_updStory (t : Tag) (f : Story → Story) : (s.updStory t f).ledger = s.ledger := by
  unfold State.updStory
  split <;> simp
@[simp] theorem ledger_updDelivery (t : Tag) (n : Circ) (f : Delivery → Delivery) :
    (s.updDelivery t n f).ledger = s.ledger := by simp [State.updDelivery]
@[simp] theorem ledger_setNotice (i : Slot32) (x : Option Notice) : (s.setNotice i x).ledger = s.ledger := by
  simp [State.setNotice]
@[simp] theorem ledger_setWriter (w : Writer) : (s.setWriter w).ledger = s.ledger := by simp [State.setWriter]

/-! ### The write list and the reports -/

@[simp] theorem ledger_listBytes (off : Nat) (be : BitVec 4) (data : Word32) :
    (s.listBytes off be data).ledger = s.ledger := by simp [State.listBytes]
@[simp] theorem ledger_listZero (o : Nat) : (s.listZero o).ledger = s.ledger := by simp [State.listZero]
@[simp] theorem ledger_listStatus (status index : Nat) : (s.listStatus status index).ledger = s.ledger := by
  simp [State.listStatus]
@[simp] theorem ledger_listAck (gen : Byte) (status index : Nat) :
    (s.listAck gen status index).ledger = s.ledger := by simp [State.listAck]
@[simp] theorem ledger_resetSettled : s.resetSettled.ledger = s.ledger := by
  unfold State.resetSettled
  split <;> simp
@[simp] theorem ledger_dropReport (r : Report) : (s.dropReport r).ledger = s.ledger := by
  unfold State.dropReport
  split <;> simp
@[simp] theorem ledger_beginReport (r : Report) : (s.beginReport r).ledger = s.ledger := by
  unfold State.beginReport
  split <;> simp
@[simp] theorem ledger_post (r : Report) : (s.post r).ledger = s.ledger := by
  unfold State.post
  (repeat' split) <;> simp
@[simp] theorem ledger_beginQueued (l : List Report) : (s.beginQueued l).ledger = s.ledger := by
  induction l generalizing s with
  | nil => rfl
  | cons r rs ih =>
    unfold State.beginQueued
    split
    · rfl
    · simp [ih]
@[simp] theorem ledger_pumpReports : s.pumpReports.ledger = s.ledger := by simp [State.pumpReports]

/-! ### Parts of an apply -/

@[simp] theorem ledger_setMarkWin (f : Feed) (p : PartMark) : (s.setMarkWin f p).ledger = s.ledger := by
  simp [State.setMarkWin]
@[simp] theorem ledger_setMarkRing (p : PartMark) : (s.setMarkRing p).ledger = s.ledger := by
  simp [State.setMarkRing]
@[simp] theorem ledger_setMarkCirc (n : Circ) (p : Bool) : (s.setMarkCirc n p).ledger = s.ledger := by
  simp [State.setMarkCirc]
@[simp] theorem ledger_setWindow (f : Feed) (w : Option Win) : (s.setWindow f w).ledger = s.ledger := by
  simp [State.setWindow]
@[simp] theorem ledger_setRing (w : Option Win) : (s.setRing w).ledger = s.ledger := by simp [State.setRing]
@[simp] theorem ledger_retryWin (f : Feed) : (s.retryWin f).ledger = s.ledger := by
  unfold State.retryWin
  split <;> simp
@[simp] theorem ledger_retryRing : s.retryRing.ledger = s.ledger := by
  unfold State.retryRing
  split <;> simp
@[simp] theorem ledger_retryAll : s.retryAll.ledger = s.ledger := by simp [State.retryAll]
@[simp] theorem ledger_retryTimes (k : Nat) : (State.retryTimes k s).ledger = s.ledger := by
  induction k generalizing s with
  | zero => rfl
  | succ k ih => simp [State.retryTimes, ih]
@[simp] theorem ledger_reexamine : s.reexamine.ledger = s.ledger := by
  unfold State.reexamine
  split <;> simp
@[simp] theorem ledger_applyCheck : s.applyCheck.ledger = s.ledger := by
  unfold State.applyCheck
  split <;> simp
@[simp] theorem ledger_examineWin (f : Feed) : (s.examineWin f).ledger = s.ledger := by
  simp only [State.examineWin]
  (repeat' split) <;> simp
@[simp] theorem ledger_examineRing : s.examineRing.ledger = s.ledger := by
  simp only [State.examineRing]
  (repeat' split) <;> simp
@[simp] theorem ledger_feedBoundary (f : Feed) : (s.feedBoundary f).ledger = s.ledger := by
  unfold State.feedBoundary
  split <;> simp

/-! ### The story table -/

@[simp] theorem ledger_warnTest (f : Feed) : (s.warnTest f).ledger = s.ledger := by
  simp only [State.warnTest]
  (repeat' split) <;> simp
@[simp] theorem ledger_setAccount (f : Feed) : (s.setAccount f).ledger = s.ledger := by
  unfold State.setAccount
  split <;> simp
@[simp] theorem ledger_recompute (f : Feed) : (s.recompute f).ledger = s.ledger := by
  simp only [State.recompute]
  split <;> simp
@[simp] theorem ledger_unlink (f : Feed) (t : Tag) : (s.unlink f t).ledger = s.ledger := by
  simp only [State.unlink]
  split <;> simp
@[simp] theorem ledger_indexErase (t : Tag) : (s.indexErase t).ledger = s.ledger := by simp [State.indexErase]
@[simp] theorem ledger_historyAdd (h : HistEntry) : (s.historyAdd h).ledger = s.ledger := by
  simp [State.historyAdd]
@[simp] theorem ledger_retireHistory (st : Story) : (s.retireHistory st).ledger = s.ledger := by
  unfold State.retireHistory
  (repeat' split) <;> simp
@[simp] theorem ledger_retire (t : Tag) (st : Story) : (s.retire t st).ledger = s.ledger := by
  simp [State.retire]
@[simp] theorem ledger_retireTest (t : Tag) : (s.retireTest t).ledger = s.ledger := by
  unfold State.retireTest
  (repeat' split) <;> simp
@[simp] theorem ledger_abandonOnly (t : Tag) (n : Circ) : (s.abandonOnly t n).ledger = s.ledger := by
  unfold State.abandonOnly
  (repeat' split) <;> simp
@[simp] theorem ledger_abandon (t : Tag) (n : Circ) : (s.abandon t n).ledger = s.ledger := by
  simp [State.abandon]
@[simp] theorem ledger_releaseRef (i : Slot32) : (s.releaseRef i).ledger = s.ledger := by
  unfold State.releaseRef
  split <;> simp
@[simp] theorem ledger_enqueueNew (n : Circ) (i : Item) : (s.enqueueNew n i).ledger = s.ledger := by
  simp [State.enqueueNew]
@[simp] theorem ledger_enqueueBack (n : Circ) (i : Item) : (s.enqueueBack n i).ledger = s.ledger := by
  simp [State.enqueueBack]
@[simp] theorem ledger_dequeue (n : Circ) (i : Item) : (s.dequeue n i).ledger = s.ledger := by
  simp [State.dequeue]
@[simp] theorem ledger_noticeHere (n : Circ) (k : NoticeKind) (x : NoticeSource) :
    (s.noticeHere n k x).ledger = s.ledger := by
  unfold State.noticeHere
  split <;> simp

/-! ### The Sender -/

@[simp] theorem ledger_fetchTry (n : Circ) : (s.fetchTry n).ledger = s.ledger := by
  unfold State.fetchTry
  split <;> simp
@[simp] theorem ledger_beginSvc (n : Circ) : (s.beginSvc n).ledger = s.ledger := by simp [State.beginSvc]
@[simp] theorem ledger_leaveService (n : Circ) : (s.leaveService n).ledger = s.ledger := by
  simp [State.leaveService]
@[simp] theorem ledger_stopNotice (n : Circ) (t : Tag) (st : Story) (stop : StopOrder) :
    (s.stopNotice n t st stop).ledger = s.ledger := by
  unfold State.stopNotice
  (repeat' split) <;> simp
@[simp] theorem ledger_dropPend (n : Circ) : (s.dropPend n).ledger = s.ledger := by simp [State.dropPend]
@[simp] theorem ledger_endStop (n : Circ) : (s.endStop n).ledger = s.ledger := by
  unfold State.endStop
  split <;> simp
@[simp] theorem ledger_silentStop (n : Circ) : (s.silentStop n).ledger = s.ledger := by
  unfold State.silentStop
  (repeat' split) <;> simp
@[simp] theorem ledger_stopLineOrEnd (n : Circ) : (s.stopLineOrEnd n).ledger = s.ledger := by
  unfold State.stopLineOrEnd
  (repeat' split) <;> simp
@[simp] theorem ledger_stopHere (n : Circ) : (s.stopHere n).ledger = s.ledger := by
  simp only [State.stopHere]
  split <;> simp
@[simp] theorem ledger_preemptDone (n : Circ) : (s.preemptDone n).ledger = s.ledger := by
  simp only [State.preemptDone]
  (repeat' split) <;> simp
@[simp] theorem ledger_beginLeave (n : Circ) (k : Leave) : (s.beginLeave n k).ledger = s.ledger := by
  simp only [State.beginLeave]
  split <;> simp
@[simp] theorem ledger_enterService (n : Circ) (i : Item) (rest : List Item) :
    (s.enterService n i rest).ledger = s.ledger := by
  unfold State.enterService
  split <;> simp
@[simp] theorem ledger_select (n : Circ) : (s.select n).ledger = s.ledger := by
  unfold State.select
  (repeat' split) <;> simp
@[simp] theorem ledger_setPoint (n : Circ) : (s.setPoint n).ledger = s.ledger := by simp [State.setPoint]
@[simp] theorem ledger_actAtOnce (n : Circ) : (s.actAtOnce n).ledger = s.ledger := by
  simp only [State.actAtOnce]
  (repeat' split) <;> simp
@[simp] theorem ledger_setIdle (n : Circ) : (s.setIdle n).ledger = s.ledger := by simp [State.setIdle]
@[simp] theorem ledger_settleLine (n : Circ) : (s.settleLine n).ledger = s.ledger := by simp [State.settleLine]
@[simp] theorem ledger_wordTest (n : Circ) : (s.wordTest n).ledger = s.ledger := by
  unfold State.wordTest
  (repeat' split) <;> simp
@[simp] theorem ledger_setPhase (n : Circ) (p : Phase) : (s.setPhase n p).ledger = s.ledger := by
  simp [State.setPhase]
@[simp] theorem ledger_openLine (n : Circ) : (s.openLine n).ledger = s.ledger := by
  unfold State.openLine
  split <;> simp
@[simp] theorem ledger_afterRead (n : Circ) (size : Nat) (d : Sender) :
    (s.afterRead n size d).ledger = s.ledger := by simp [State.afterRead]
@[simp] theorem ledger_beginLost (n : Circ) (size : Nat) (u : LUnit) :
    (s.beginLost n size u).ledger = s.ledger := by
  simp only [State.beginLost]
  split <;> simp
@[simp] theorem ledger_storyEnd (n : Circ) (st : Story) : (s.storyEnd n st).ledger = s.ledger := by
  unfold State.storyEnd
  split <;> simp
@[simp] theorem ledger_askTurn (n : Circ) : State.ledger (State.askTurn s n).1 = s.ledger := by
  simp only [State.askTurn]
  (repeat' split) <;> simp
@[simp] theorem ledger_ask (k : Nat) (n : Circ) : (State.ask k s n).ledger = s.ledger := by
  induction k generalizing s with
  | zero => rfl
  | succ k ih =>
    simp only [State.ask]
    (repeat' split) <;> simp [ih]
@[simp] theorem ledger_holdNewline (n : Circ) : (s.holdNewline n).ledger = s.ledger := by
  simp only [State.holdNewline]
  split <;> simp
@[simp] theorem ledger_beginSlot (n : Circ) : (s.beginSlot n).ledger = s.ledger := by
  simp only [State.beginSlot]
  (repeat' split) <;> simp

/-! ### The Line Unit -/

@[simp] theorem ledger_dropItem (n : Circ) (i : Item) : (State.dropItem n s i).ledger = s.ledger := by
  unfold State.dropItem
  split <;> simp
@[simp] theorem ledger_emptyQueue (n : Circ) : (s.emptyQueue n).ledger = s.ledger := by simp [State.emptyQueue]
@[simp] theorem ledger_stopCore (n : Circ) : (s.stopCore n).ledger = s.ledger := by simp [State.stopCore]
@[simp] theorem ledger_dropService (n : Circ) : (s.dropService n).ledger = s.ledger := by
  unfold State.dropService
  split <;> simp
@[simp] theorem ledger_circOff (n : Circ) : (s.circOff n).ledger = s.ledger := by simp [State.circOff]
@[simp] theorem ledger_circOn (n : Circ) : (s.circOn n).ledger = s.ledger := by simp [State.circOn]
@[simp] theorem ledger_circChange (n : Circ) (old new : CircCfg) :
    (s.circChange n old new).ledger = s.ledger := by
  simp only [State.circChange]
  (repeat' split) <;> simp
@[simp] theorem ledger_setCircCfg (n : Circ) (new : CircCfg) : (s.setCircCfg n new).ledger = s.ledger := by
  simp only [State.setCircCfg]
  (repeat' split) <;> simp
@[simp] theorem ledger_examineCirc (n : Circ) : (s.examineCirc n).ledger = s.ledger := by
  simp only [State.examineCirc]
  split <;> simp
@[simp] theorem ledger_circBoundary (n : Circ) : (s.circBoundary n).ledger = s.ledger := by
  unfold State.circBoundary
  split <;> simp
@[simp] theorem ledger_heldCore (n : Circ) : (s.heldCore n).ledger = s.ledger := by simp [State.heldCore]
@[simp] theorem ledger_enterRunning (n : Circ) : (s.enterRunning n).ledger = s.ledger := by
  simp [State.enterRunning]
@[simp] theorem ledger_brokenCore (n : Circ) : (s.brokenCore n).ledger = s.ledger := by simp [State.brokenCore]
@[simp] theorem ledger_leadSlots (n : Circ) (ends : State → Circ → State)
    (h : ∀ s n, State.ledger (ends s n) = s.ledger) : (s.leadSlots n ends).ledger = s.ledger := by
  simp only [State.leadSlots]
  split <;> simp [h]
@[simp] theorem ledger_leadOver (n : Circ) : (s.leadOver n).ledger = s.ledger := by simp [State.leadOver]
@[simp] theorem ledger_restartLine (n : Circ) (cap : Capture) : (s.restartLine n cap).ledger = s.ledger := by
  simp only [State.restartLine]
  split <;> simp
@[simp] theorem ledger_takeUp (n : Circ) : (s.takeUp n).ledger = s.ledger := by
  unfold State.takeUp
  (repeat' split) <;> simp
@[simp] theorem ledger_clearBreak (n : Circ) : (s.clearBreak n).ledger = s.ledger := by
  simp only [State.clearBreak]
  (repeat' split) <;> simp
@[simp] theorem ledger_enterBroken (n : Circ) : (s.enterBroken n).ledger = s.ledger := by
  simp only [State.enterBroken]
  split <;> simp
@[simp] theorem ledger_faultItem (n : Circ) : (s.faultItem n).ledger = s.ledger := by
  simp only [State.faultItem]
  (repeat' split) <;> simp
@[simp] theorem ledger_faultCore (n : Circ) : (s.faultCore n).ledger = s.ledger := by simp [State.faultCore]
@[simp] theorem ledger_spaceLimits (n : Circ) : (s.spaceLimits n).ledger = s.ledger := by
  unfold State.spaceLimits
  (repeat' split) <;> simp
@[simp] theorem ledger_afterPart (n : Circ) (t : State) (h : t.ledger = s.ledger) :
    (s.afterPart n t).ledger = s.ledger := by
  unfold State.afterPart
  split <;> simp [h]
@[simp] theorem ledger_enterHeld (n : Circ) : (s.enterHeld n).ledger = s.ledger := by simp [State.enterHeld]
@[simp] theorem ledger_leadEnd (n : Circ) : (s.leadEnd n).ledger = s.ledger := by
  simp only [State.leadEnd]
  (repeat' split) <;> simp
@[simp] theorem ledger_leadStart (n : Circ) : (s.leadStart n).ledger = s.ledger := by simp [State.leadStart]
@[simp] theorem ledger_sched (n : Circ) : (s.sched n).ledger = s.ledger := by
  unfold State.sched
  split <;> simp
@[simp] theorem ledger_restore (n : Circ) : (s.restore n).ledger = s.ledger := by simp [State.restore]
@[simp] theorem ledger_partTaken (n : Circ) (t : State) (h : t.ledger = s.ledger) :
    (s.partTaken n t).ledger = s.ledger := by
  unfold State.partTaken
  (repeat' split) <;> simp [h]

/-! ### The start of an apply -/

@[simp] theorem ledger_markParts : s.markParts.ledger = s.ledger := rfl
@[simp] theorem ledger_takeGeneral : s.takeGeneral.ledger = s.ledger := ledger_mk_applied _ _
@[simp] theorem ledger_takeRoute : s.takeRoute.ledger = s.ledger := ledger_mk_applied _ _
@[simp] theorem ledger_takeLevels (f : Feed) : (s.takeLevels f).ledger = s.ledger := by
  simp only [State.takeLevels]
  (repeat' split) <;> simp
@[simp] theorem ledger_tryWin (f : Feed) : (s.tryWin f).ledger = s.ledger := by
  unfold State.tryWin
  split <;> simp
@[simp] theorem ledger_tryRing : s.tryRing.ledger = s.ledger := by
  unfold State.tryRing
  split <;> simp
@[simp] theorem ledger_tryCirc (n : Circ) : (s.tryCirc n).ledger = s.ledger := by
  unfold State.tryCirc
  split <;> simp
@[simp] theorem ledger_tryParts : s.tryParts.ledger = s.ledger := by
  simp [State.tryParts]
@[simp] theorem ledger_applyRefused (gen : Byte) (entry : Nat) :
    (s.applyRefused gen entry).ledger = s.ledger := by
  simp [State.applyRefused]
@[simp] theorem ledger_applyValid (gen : Byte) : (s.applyValid gen).ledger = s.ledger := by
  simp only [State.applyValid]
  split <;> simp

/-- An apply records the generation that staging holds, and nothing else of the Mirror's own (R19). -/
theorem ledger_startApply :
    s.startApply.ledger =
      State.ledger { s with mirror := { s.mirror with genSeen := staged8 s.mirror.staging 0 } } := by
  simp only [State.startApply]
  split <;> simp

end
end Sys2Proof.Machine
end

section
namespace Sys2Proof.Machine

/-! ### The head record (R161, R163) -/

section
variable {s : State}

theorem ringBoundary_settled (h : s.mirror.pendRing ≠ .waiting) : s.ringBoundary = s :=
  if_neg fun hc => h (by simpa using (Bool.and_eq_true_iff.1 hc).1)

theorem handOver_headRead {x : Txn} {j w : Nat} (hr : x.write = false)
    (hc : s.classify (Txn.word x) = .report j w) : s.handOver x = .report j w :=
  (handOver_read hr).trans (congrArg (fun c => c.handOver false) hc)

theorem consumes_head (h : 0 < s.writer.count) : s.consumes s.writer.head 0 = true := by
  simp [State.consumes, h]

/-- A read of word 0 of the head slot with a record unconsumed names the head record. -/
theorem namesHead_of {x : Txn} (ho : s.handOver x = .report s.writer.head 0) (h : 0 < s.writer.count) :
    namesHead s x = true := by
  simp only [namesHead, ho, consumes_head h]

theorem ringRead_head (h : 0 < s.writer.count) :
    s.ringRead s.writer.head 0 = s.consumeHead.ringBoundary.pumpReports := if_pos (consumes_head h)

theorem reportHeadRead_eq {x : Txn} (hx : s.hostTxn = some x) (hr : x.write = false)
    (hc : s.classify (Txn.word x) = .report s.writer.head 0) (h : 0 < s.writer.count) :
    s.completeHost namesHead = (s.landed x).consumeHead.ringBoundary.pumpReports.settleBus := by
  have ho := handOver_headRead hr hc
  rw [completeHost_names hx (namesHead_of ho h), handOn_report ((handOver_landed x x).trans ho)]
  exact congrArg State.settleBus (ringRead_head (s := s.landed x) h)

/-- With nothing queued and no ring part waiting, the consumption is all that the read comes to. -/
theorem consumeHead_alone (hq : s.writer.queue = []) (hp : s.mirror.pendRing ≠ .waiting) :
    s.consumeHead.ringBoundary.pumpReports = s.consumeHead := by
  rw [ringBoundary_settled (s := s.consumeHead) hp, pumpReports_still (s := s.consumeHead) (.inr hq)]

theorem attention_iff : s.attention = true ↔ s.applied.attnEnable = true ∧ 0 < s.writer.attn := by
  simp [State.attention]

/-! ### The page load (R3, R31) -/

variable {u : State}

theorem settleBus_genSeen : u.settleBus.mirror.genSeen = u.mirror.genSeen := by
  obtain ⟨b, l, r, ht, -⟩ := settleBus_granted u
  rw [ht]

theorem loadComplete_eq {x : Txn} {o fault : Bool}
    (hp : s.bus.port = some { by_ := .mirror .load, txn := x, orphan := o }) :
    s.loadComplete fault = (s.freePort.loadWord (s.ownWord x fault)).settleBus := by
  simp only [State.loadComplete, hp]

/-- The request bytes of a loaded word: the lanes at page offsets of requests that are not zero. -/
theorem mem_loadedRequests (off : Nat) (d : Word32) (a : Nat) :
    a ∈ loadedRequests off d ↔ off ≤ a ∧ a < off + 4 ∧ (a = 4 ∨ a = 8 ∨ 0x0C ≤ a ∧ a < 0x14) ∧
      wordByte d (a - off) ≠ 0 := by
  have hlane : ∀ i, i ∈ [0, 1, 2, 3] ↔ i < 4 := fun i => by simp; omega
  simp only [loadedRequests, List.mem_map, List.mem_filter, hlane, isRequestByte, Bool.and_eq_true, Bool.or_eq_true,
    beq_iff_eq, bne_iff_ne, decide_eq_true_eq, or_assoc]
  constructor
  · rintro ⟨i, ⟨hi, hreq, hv⟩, rfl⟩
    exact ⟨Nat.le_add_right .., by omega, hreq, by rwa [Nat.add_sub_cancel_left]⟩
  · rintro ⟨hle, hlt, hreq, hv⟩
    exact ⟨a - off, ⟨by omega, by rwa [Nat.add_sub_cancel' hle], hv⟩, Nat.add_sub_cancel' hle⟩

/-- All four lanes of a word copied into staging. -/
theorem memRead_stageWord (hwf : Memory.wf s.mirror.staging = true) (off : Nat) (d : Word32) (a : Nat) :
    memRead (s.stageWrite off 0xF d).mirror.staging a =
      if off ≤ a ∧ a < off + 4 then wordByte d (a - off) else memRead s.mirror.staging a := by
  have hlanes : lanesOf 0xF = [0, 1, 2, 3] := by decide
  have hin : (off ≤ a ∧ a - off ∈ [0, 1, 2, 3]) ↔ (off ≤ a ∧ a < off + 4) := by simp; omega
  rw [State.stageWrite, memRead_memWriteLanes hwf, hlanes]
  simp only [hin]

/-- The load goes on at the next word. -/
def State.loadNext (s : State) (j : LoadJob) : State := { s with mirror := { s.mirror with load := some j } }

/-- The load's last word has been taken. -/
def State.loadTaken (s : State) (nonzero : List Nat) : State :=
  nonzero.foldl State.listZero { s with mirror := { s.mirror with load := none } }

theorem loadWord_more {j : LoadJob} (d : Word32) (hj : s.mirror.load = some j) (h : j.next + 4 < pageSize) :
    s.loadWord d = (s.stageWrite j.next 0xF d).loadNext
      { next := j.next + 4, nonzero := j.nonzero ++ loadedRequests j.next d } := by
  simp only [State.loadWord, hj]
  exact if_pos h

theorem loadWord_last {j : LoadJob} (d : Word32) (hj : s.mirror.load = some j) (h : pageSize ≤ j.next + 4) :
    s.loadWord d = (s.stageWrite j.next 0xF d).loadEnd (j.nonzero ++ loadedRequests j.next d) := by
  simp only [State.loadWord, hj]
  exact if_neg (Nat.not_lt.2 h)

theorem loadWord_staging {j : LoadJob} (d : Word32) (hj : s.mirror.load = some j) :
    (s.loadWord d).mirror.staging = (s.stageWrite j.next 0xF d).mirror.staging := by
  rcases Nat.lt_or_ge (j.next + 4) pageSize with h | h
  · rw [loadWord_more d hj h]
    rfl
  · rw [loadWord_last d hj h]
    exact congrArg (fun o => o.2.2.1) (outer_loadEnd _ _)

theorem loadWord_mem {j : LoadJob} (d : Word32) (hj : s.mirror.load = some j) : (s.loadWord d).mem = s.mem := by
  rcases Nat.lt_or_ge (j.next + 4) pageSize with h | h
  · rw [loadWord_more d hj h]
    rfl
  · rw [loadWord_last d hj h]
    exact congrArg (fun o => o.2.1) (outer_loadEnd _ _)

theorem startApply_genSeen : s.startApply.mirror.genSeen = staged8 s.mirror.staging 0 :=
  congrArg Ledger.genSeen (ledger_startApply s)

/-- After the load's end no load is in progress, and the generation loaded is the one last seen. -/
theorem loadEnd_load (l : List Nat) : (s.loadEnd l).mirror.load = none := by
  have ht : (s.loadTaken l).mirror.load = none :=
    ledger_load (ledger_foldl _ State.listZero ledger_listZero l)
  exact (congrArg Ledger.load (ledger_startApply (s.loadTaken l))).trans ht

theorem loadEnd_genSeen (l : List Nat) : (s.loadEnd l).mirror.genSeen = staged8 (s.loadEnd l).mirror.staging 0 := by
  have hst : (s.loadEnd l).mirror.staging = (s.loadTaken l).mirror.staging :=
    congrArg (fun o => o.2.2.1) (outer_startApply _)
  rw [hst]
  exact startApply_genSeen (s := s.loadTaken l)

/-- The read with nothing queued and no ring part waiting (R161, R163). -/
theorem reportHeadRead_consumes {x : Txn} (hx : s.hostTxn = some x) (hr : x.write = false)
    (hc : s.classify (Txn.word x) = .report s.writer.head 0) (h : 0 < s.writer.count)
    (hq : s.writer.queue = []) (hp : s.mirror.pendRing ≠ .waiting) :
    ∃ t, exec .reportHeadRead s = .next t ∧ t.mem = s.mem ∧
      t.bus.hostReply = some { data := memReadWord s.mem (Txn.word x), busError := false } ∧
      t.writer = { s.writer with
        head := s.nextSlot s.writer.head, count := s.writer.count - 1, flags := s.writer.flags.tail
        attn := if s.writer.flags.headD false then s.writer.attn - 1 else s.writer.attn } ∧
      (s.setWriter t.writer).SameBlocks t ∧ s.SameMirror t ∧
      (t.attention = true ↔ s.applied.attnEnable = true ∧ 0 < t.writer.attn) := by
  have he : s.completeHost namesHead = (s.landed x).consumeHead.settleBus :=
    (reportHeadRead_eq hx hr hc h).trans
      (congrArg State.settleBus (consumeHead_alone (s := s.landed x) hq hp))
  refine ⟨_, congrArg Host.Outcome.next he, ?_, ?_, ?_, ?_, settleBus_sameMirror rfl, ?_⟩
  · rw [settleBus_mem]
    exact memApply_read s.mem x hr
  · rw [settleBus_hostReply]
    exact congrArg some (by rw [State.reply, if_neg (by simp [hr])])
  · rw [settleBus_writer]
    rfl
  · rw [settleBus_writer]
    exact settleBus_sameBlocks (sameBlocks_update _ _ _)
  · rw [attention_iff, settleBus_applied]
    rfl

/-- Settles O56: the head read by what it hands on, the load's word by whether it is the last. -/
theorem headAndLoadReads : Obligations.HeadAndLoadReads := by
  refine ⟨fun s x hx hr hc h => ⟨congrArg Host.Outcome.next (reportHeadRead_eq hx hr hc h), reportHeadRead_consumes hx hr hc h⟩,
    fun s x o fault j hp hj hwf => ⟨fun a => by rw [List.mem_append, mem_loadedRequests], ?_⟩⟩
  refine ⟨_, congrArg Host.Outcome.next (loadComplete_eq hp), ?_, fun a => ?_, fun h => ?_, fun h => ?_⟩
  · rw [settleBus_mem]
    exact loadWord_mem (s := s.freePort) _ hj
  · rw [settleBus_staging, loadWord_staging (s := s.freePort) _ hj]
    exact memRead_stageWord (s := s.freePort) hwf _ _ a
  · have he := loadWord_more (s := s.freePort) (s.ownWord x fault) hj h
    refine ⟨settleBus_sameBlocks ?_, ?_, ?_⟩
    · rw [he]
      exact sameBlocks_update _ _ _
    · rw [settleBus_load, he]
      rfl
    · rw [settleBus_genSeen, he]
      rfl
  · have he := loadWord_last (s := s.freePort) (s.ownWord x fault) hj h
    refine ⟨congrArg State.settleBus he, ?_, ?_⟩
    · rw [settleBus_load, he, loadEnd_load]
    · rw [settleBus_genSeen, settleBus_staging, he, loadEnd_genSeen]

end
end Sys2Proof.Machine
end

section
namespace Sys2Proof.Machine

/-! ### A host write of the control page (R17 to R19) -/

section
variable {s u : State} {x : Txn} {off : Nat}

/-- The completion that names a page write is that write's hand-over to the Mirror (R2, R6, R17). -/
theorem completeHost_pageWriteAt {names : State → Txn → Bool} (h : s.PageWriteAt x off) (hn : names s x = true) :
    s.completeHost names = ((s.landed x).pageWrite off x.be x.data).settleBus := by
  rw [completeHost_names h.port hn, handOn_pageWriteAt h]

theorem exec_controlPageWrite (h : s.PageWriteAt x off) :
    exec .controlPageWrite s = .next ((s.landed x).pageWrite off x.be x.data).settleBus :=
  congrArg Host.Outcome.next (completeHost_pageWriteAt h (namesPage_of h))

/-- A row that names a request byte names the page write that enables it with a value that passes (R17). -/
theorem carries_of {o : Nat} {test : Byte → Bool} (h : s.PageWriteAt x (o / 4 * 4)) (hb : x.be.getLsbD (o % 4) = true)
    (hv : test (wordByte x.data (o % 4)) = true) : carries o test s x = true := by
  simp [carries, State.pageOff, handOver_of_pageWriteAt h, hb, hv]

/-- A byte of the staging copy after a write of a page word (R17). -/
theorem memRead_stageWrite (hwf : Memory.wf s.mirror.staging = true) (off : Nat) (be : BitVec 4) (d : Word32) (a : Nat) :
    memRead (s.stageWrite off be d).mirror.staging a =
      if off ≤ a ∧ a < off + 4 ∧ be.getLsbD (a - off) = true then wordByte d (a - off)
      else memRead s.mirror.staging a := by
  have hin : (off ≤ a ∧ a - off ∈ lanesOf be) ↔ (off ≤ a ∧ a < off + 4 ∧ be.getLsbD (a - off) = true) := by
    rw [mem_lanesOf]
    constructor
    · rintro ⟨h1, h2, h3⟩; exact ⟨h1, by omega, h3⟩
    · rintro ⟨h1, h2, h3⟩; exact ⟨h1, by omega, h3⟩
  rw [State.stageWrite, memRead_memWriteLanes hwf]
  simp only [hin]

/-- An enabled lane of the write stands in staging. -/
theorem staged8_stageWrite (hwf : Memory.wf s.mirror.staging = true) {be : BitVec 4} {d : Word32} {i : Nat} (hi : i < 4)
    (hb : be.getLsbD i = true) : staged8 (s.stageWrite off be d).mirror.staging (off + i) = wordByte d i := by
  rw [staged8, memRead_stageWrite hwf, if_pos ⟨by omega, by omega, by simpa using hb⟩, Nat.add_sub_cancel_left]

/-- Settles O17: the request bytes and the generation leave the rim alone, so what counts is the write itself. -/
theorem pageWriteStages : Obligations.PageWriteStages := by
  intro s x off h
  have hrim := rim_pageWrite (s.landed x) off x.be x.data
  have hst : ((s.landed x).pageWrite off x.be x.data).mirror.staging = (s.stageWrite off x.be x.data).mirror.staging :=
    staging_of_rim (t := (s.landed x).stageWrite off x.be x.data) hrim
  have hbus : ((s.landed x).pageWrite off x.be x.data).bus = (s.landed x).bus :=
    bus_of_rim (t := (s.landed x).stageWrite off x.be x.data) hrim rfl
  refine ⟨_, exec_controlPageWrite h, ?_, ?_, fun a => ?_⟩
  · rw [settleBus_mem]
    exact mem_of_rim hrim
  · rw [settleBus_hostReply, hbus]
    exact congrArg some (by rw [State.reply, if_pos h.write])
  · rw [settleBus_staging, hst]
    exact memRead_stageWrite h.staging off x.be x.data a

/-- A write of a page word without request bytes takes no request: it stages, and at offset 0 the generation is examined
(R17, R19). -/
theorem pageWrite_noRequest (be : BitVec 4) (d : Word32) (h : off = 0 ∨ 0x14 ≤ off) :
    s.pageWrite off be d = if off = 0 && be.getLsbD 0 then (s.stageWrite off be d).examineGen
      else s.stageWrite off be d := by
  have hnone : ∀ i ∈ lanesOf be, ∀ v : State, v.takeRequest (off + i) = v := fun i hi v =>
    have := ((mem_lanesOf be i).1 hi).1
    takeRequest_none (by omega) (by omega) (by omega)
  simp only [State.pageWrite, takeRequests_none hnone]

/-- The generation byte as last seen starts nothing (R19). -/
theorem examineGen_seen (h : staged8 s.mirror.staging 0 = s.mirror.genSeen) : s.examineGen = s :=
  if_pos (by simp [h])

/-- Another generation outside the page load starts an apply (R19). -/
theorem examineGen_other (h : staged8 s.mirror.staging 0 ≠ s.mirror.genSeen) (hl : s.mirror.load = none) :
    s.examineGen = s.startApply :=
  if_neg (by simp [h, hl])

/-- Settles O18: no byte of such a word is a request, and the generation examined is the one last seen. -/
theorem stagedBytesWait : Obligations.StagedBytesWait := by
  intro s x off h hoff
  have hwrite : (s.landed x).pageWrite off x.be x.data = (s.landed x).stageWrite off x.be x.data := by
    rw [pageWrite_noRequest _ _ (hoff.symm.imp And.left id)]
    rcases hoff with hbeyond | ⟨rfl, hseen⟩
    · rw [if_neg (by simp; omega)]
    · rw [examineGen_seen (s := (s.landed x).stageWrite 0 x.be x.data) hseen, ite_self]
  refine ⟨_, exec_controlPageWrite h, ?_, ?_⟩
  · rw [hwrite]
    exact settleBus_sameBlocks (sameBlocks_update _ _ _)
  · rw [hwrite]
    exact settleBus_sameMirror rfl

end
end Sys2Proof.Machine
end

section
namespace Sys2Proof.Machine

/-! ### Reports posted by the Mirror (R158) -/

section
variable {s u : State}

/-- u is s but for the Report Writer, the Mirror's write list and its wait for RESET_DONE: all that a report reaches. -/
def Told (s u : State) : Prop :=
  ∃ w l b, u = { s with writer := w, mirror := { s.mirror with writeList := l, resetWait := b } }

theorem Told.refl (s : State) : Told s s := ⟨_, _, _, rfl⟩

theorem Told.trans {t : State} (h : Told s t) (k : Told t u) : Told s u := by
  obtain ⟨w, l, b, rfl⟩ := h
  obtain ⟨w', l', b', rfl⟩ := k
  exact ⟨w', l', b', rfl⟩

/-- What reads nothing of those is kept. -/
theorem Told.keeps {α : Type} (h : Told s u) (f : State → α)
    (hf : ∀ w l b, f { s with writer := w, mirror := { s.mirror with writeList := l, resetWait := b } } = f s) :
    f u = f s := by
  obtain ⟨w, l, b, rfl⟩ := h
  exact hf w l b

theorem setWriter_told (w : Writer) : Told s (s.setWriter w) := ⟨w, _, _, rfl⟩

theorem resetSettled_told : Told s s.resetSettled := by
  unfold State.resetSettled
  split
  · exact ⟨_, _, _, rfl⟩
  · exact .refl s

theorem dropReport_told (r : Report) : Told s (s.dropReport r) := by
  simp only [State.dropReport]
  split
  · exact (setWriter_told _).trans resetSettled_told
  · exact setWriter_told _

theorem beginReport_told (r : Report) : Told s (s.beginReport r) := by
  unfold State.beginReport
  split
  · exact setWriter_told _
  · exact dropReport_told r

theorem beginQueued_told (l : List Report) : Told s (s.beginQueued l) := by
  induction l generalizing s with
  | nil => exact .refl s
  | cons r rs ih =>
    unfold State.beginQueued
    split
    · exact .refl s
    · exact (setWriter_told _).trans ((beginReport_told r).trans ih)

theorem post_told (r : Report) : Told s (s.post r) := by
  unfold State.post
  (repeat' split)
  · exact beginReport_told r
  · exact dropReport_told r
  · exact setWriter_told _

theorem dropReport_mirror {r : Report} (hr : r.kind ≠ .resetDone) : (s.dropReport r).mirror = s.mirror := by
  rw [State.dropReport, if_neg (by simpa using hr)]
  rfl

theorem beginReport_mirror {r : Report} (hr : r.kind ≠ .resetDone) : (s.beginReport r).mirror = s.mirror := by
  unfold State.beginReport
  split
  · rfl
  · exact dropReport_mirror hr

/-- Only RESET_DONE has a write-back of its own (R34). -/
theorem post_mirror {r : Report} (hr : r.kind ≠ .resetDone) : (s.post r).mirror = s.mirror := by
  unfold State.post
  (repeat' split)
  · exact beginReport_mirror hr
  · exact dropReport_mirror hr
  · rfl

theorem dropReport_writer (r : Report) :
    (s.dropReport r).writer = { s.writer with lost := satInc 65535 s.writer.lost } := by
  simp only [State.dropReport]
  split
  · exact resetSettled_writer
  · rfl

theorem beginReport_writer_congr (hw : u.writer = s.writer) (ha : u.applied = s.applied) (r : Report) :
    (u.beginReport r).writer = (s.beginReport r).writer := by
  have ho : u.ringOpen = s.ringOpen := by simp only [State.ringOpen, hw, ha]
  have hf : u.flagged r.kind = s.flagged r.kind := by simp only [State.flagged, ha]
  unfold State.beginReport
  rw [ho]
  split
  · simp only [setWriter_writer, hw, hf]
  · rw [dropReport_writer, dropReport_writer, hw]

/-- A report is posted by what the Writer and the applied ring and mask hold (R158, R159). -/
theorem post_writer_congr (hw : u.writer = s.writer) (ha : u.applied = s.applied) (r : Report) :
    (u.post r).writer = (s.post r).writer := by
  unfold State.post
  rw [hw]
  split
  · exact beginReport_writer_congr hw ha r
  · split
    · rw [dropReport_writer, dropReport_writer, hw]
    · rfl

theorem settleBus_mirror (u : State) :
    ∃ l r, u.settleBus.mirror = { u.mirror with writeList := l, req := r } := by
  obtain ⟨b, l, r, ht, -⟩ := settleBus_granted u
  exact ⟨l, r, by rw [ht]⟩

/-! ### The generation byte (R19 to R21) -/

theorem applyRefused_mirror (g : Byte) (e : Nat) : (s.applyRefused g e).mirror = (s.listStatus 3 e).mirror :=
  post_mirror (by simp)

theorem applyRefused_writer (g : Byte) (e : Nat) : (s.applyRefused g e).writer =
    (s.post { kind := .applyRefused, valA := g.setWidth 32, valB := BitVec.ofNat 16 e }).writer :=
  post_writer_congr (s := s) (u := s.listStatus 3 e) rfl rfl _

theorem applyRefused_told (g : Byte) (e : Nat) : Told s (s.applyRefused g e) := by
  have h : Told s (s.listStatus 3 e) := ⟨_, _, _, rfl⟩
  exact h.trans (post_told _)

/-- The state in which staging's generation g has been seen (R19). -/
def State.sawGen (s : State) (g : Byte) : State := { s with mirror := { s.mirror with genSeen := g } }

theorem startApply_valid (h : s.refusedEntry = none) :
    s.startApply = (s.sawGen (staged8 s.mirror.staging 0)).applyValid (staged8 s.mirror.staging 0) := by
  have h' : (s.sawGen (staged8 s.mirror.staging 0)).refusedEntry = none := h
  unfold State.startApply
  simp only [State.sawGen] at h' ⊢
  simp only [h']

theorem startApply_refused {e : Nat} (h : s.refusedEntry = some e) :
    s.startApply = (s.sawGen (staged8 s.mirror.staging 0)).applyRefused (staged8 s.mirror.staging 0) e := by
  have h' : (s.sawGen (staged8 s.mirror.staging 0)).refusedEntry = some e := h
  unfold State.startApply
  simp only [State.sawGen] at h' ⊢
  simp only [h']

/-- GENERATION_WRITE starts an apply on the staging that its write left (R17, R19). -/
theorem exec_generationWrite {x : Txn} (h : s.PageWriteAt x 0) (hb : x.be.getLsbD 0 = true)
    (hg : wordByte x.data 0 ≠ s.mirror.genSeen) (hl : s.mirror.load = none) :
    exec .generationWrite s = .next ((s.landed x).stageWrite 0 x.be x.data).startApply.settleBus := by
  have hn : namesGen s x = true := by
    have hc : carries 0 (fun b => b != s.mirror.genSeen) s x = true := carries_of h hb (by simpa using hg)
    simp [namesGen, hc, hl]
  have hv : staged8 ((s.landed x).stageWrite 0 x.be x.data).mirror.staging 0 = wordByte x.data 0 :=
    staged8_stageWrite (s := s.landed x) (off := 0) h.staging (by decide) hb
  have hexam : ((s.landed x).stageWrite 0 x.be x.data).examineGen = ((s.landed x).stageWrite 0 x.be x.data).startApply :=
    examineGen_other (by rw [hv]; exact hg) hl
  refine congrArg Host.Outcome.next ((completeHost_pageWriteAt h hn).trans (congrArg State.settleBus ?_))
  rw [pageWrite_noRequest _ _ (.inl rfl), if_pos (by simp [hb]), hexam]

/-- Settles O19: the write starts an apply, and the search for a refused entry decides between its two ways. -/
theorem generationIsJudged : Obligations.GenerationIsJudged := by
  intro s x h hb hg hl s'
  have hv : staged8 ((s.landed x).stageWrite 0 x.be x.data).mirror.staging 0 = wordByte x.data 0 :=
    staged8_stageWrite (s := s.landed x) (off := 0) h.staging (by decide) hb
  have hexec := exec_generationWrite h hb hg hl
  refine ⟨fun hnone => ?_, fun e he => ?_⟩
  · rw [hexec, startApply_valid (s := (s.landed x).stageWrite 0 x.be x.data) hnone, hv]
    rfl
  · rw [startApply_refused (s := (s.landed x).stageWrite 0 x.be x.data) he, hv] at hexec
    intro r t
    obtain ⟨w, l, b, hr⟩ : Told r (r.applyRefused (wordByte x.data 0) e) := applyRefused_told _ _
    obtain ⟨b', l', q, ht, -⟩ := settleBus_granted (r.applyRefused (wordByte x.data 0) e)
    refine ⟨hexec, rfl, ?_⟩
    rw [show t = _ from ht, hr]
    exact ⟨rfl, rfl, rfl, rfl, rfl, rfl, rfl, rfl, rfl, rfl, rfl⟩

/-! ### Validation (R20) -/

/-- The entry of a feed's region is its number. -/
theorem entry_of_mem_regionOfFeed {f : Feed} {w : Option Win} {r : Region} (h : r ∈ regionOfFeed f w) :
    r.entry = f.1 := by
  cases w with
  | none => cases h
  | some w => rw [List.mem_singleton.1 h]

theorem entry_of_mem_regionOfRing {w : Option Win} {r : Region} (h : r ∈ regionOfRing w) : r.entry = 12 := by
  cases w with
  | none => cases h
  | some w => rw [List.mem_singleton.1 h]

/-- The staged regions stand in entry order. -/
theorem stagedRegions_sorted (m : Memory) : (stagedRegions m).Pairwise fun r q => r.entry ≤ q.entry := by
  have hfeeds : allFeeds.Pairwise fun f g => f.1 ≤ g.1 := by decide
  have hfeed : ∀ (f : Feed) (w : Option Win), (regionOfFeed f w).Pairwise fun r q => r.entry ≤ q.entry := by
    intro f w
    cases w <;> simp [regionOfFeed]
  refine List.pairwise_append.2 ⟨List.pairwise_flatMap.2 ⟨fun f _ => hfeed f _, hfeeds.imp ?_⟩, ?_, ?_⟩
  · intro f g hfg r hr q hq
    rw [entry_of_mem_regionOfFeed hr, entry_of_mem_regionOfFeed hq]
    exact hfg
  · cases stagedRing m <;> simp [regionOfRing]
  · intro r hr q hq
    obtain ⟨f, -, hf⟩ := List.mem_flatMap.1 hr
    rw [entry_of_mem_regionOfFeed hf, entry_of_mem_regionOfRing hq]
    omega

theorem clashes_false_iff {r : Region} {page : Nat} {rs : List Region} : r.clashes page rs = false ↔
    overlap r.base r.size page pageSize = false ∧
      ∀ q ∈ rs, q.entry ≠ r.entry → overlap r.base r.size q.base q.size = false := by
  simp only [Region.clashes, Bool.or_eq_false_iff, List.any_eq_false, Bool.and_eq_true, bne_iff_ne, not_and,
    Bool.not_eq_true]

/-- Settles O20: the search runs through the regions in entry order and stops at the first that clashes. -/
theorem validationNamesTheLowest : Obligations.ValidationNamesTheLowest := by
  intro s
  refine ⟨?_, fun e he => ?_⟩
  · rw [State.refusedEntry, Option.map_eq_none_iff, List.find?_eq_none]
    simp only [Bool.not_eq_true, clashes_false_iff]
  · obtain ⟨r, hfind, rfl⟩ := Option.map_eq_some_iff.1 he
    have hr := List.find?_some hfind
    refine ⟨⟨r, List.mem_of_find?_eq_some hfind, rfl, hr⟩, fun q hq hlt => ?_⟩
    by_contra hclash
    have hle := find_first (R := fun r q : Region => r.entry ≤ q.entry) (Nat.le_refl _)
      (stagedRegions_sorted s.mirror.staging) hfind hq (by simpa using hclash)
    omega

end
end Sys2Proof.Machine
end

section
namespace Sys2Proof.Machine

/-! ### Requests to circuits (R28) -/

section
variable {s u : State} {x : Txn} {n : Circ}

theorem takeRequests_eq_foldl (off : Nat) (l : List Nat) (s : State) :
    State.takeRequests off l s = l.foldl (fun u k => u.takeRequest (off + k)) s := by
  induction l generalizing s with
  | nil => rfl
  | cons k ks ih => exact ih _

/-- A write beyond the generation word takes the requests of its lanes and is done. -/
theorem pageWrite_beyond {off : Nat} (be : BitVec 4) (d : Word32) (h : off ≠ 0) :
    s.pageWrite off be d = State.takeRequests off (lanesOf be) (s.stageWrite off be d) := by
  simp [State.pageWrite, h]

theorem lanesOf_single {i : Nat} (h : i < 4) : lanesOf (1#4 <<< i) = [i] := by
  obtain rfl | rfl | rfl | rfl : i = 0 ∨ i = 1 ∨ i = 2 ∨ i = 3 := by omega
  all_goals decide

theorem takeRequest_circ (n : Circ) :
    u.takeRequest (0x0C + n.1) = u.circRequest n (staged8 u.mirror.staging (0x0C + n.1)) := by
  have hn := n.2
  simp only [State.takeRequest]
  rw [if_neg (by omega), if_neg (by omega), dif_pos ⟨by omega, by omega⟩]
  congr 1
  exact Fin.ext (Nat.add_sub_cancel_left ..)

theorem circRequest_eq (n : Circ) (v : Byte) : u.circRequest n v =
    let w := u.listZero (0x0C + n.1)
    if v = 0 then u else if v = 1 then w.holdReq n else if v = 2 then w.releaseReq n
    else if v = 3 then w.clearReq n else if v = 4 then w.stopMotorReq n else w := rfl

theorem circRequest_hold (n : Circ) : u.circRequest n 1 = (u.listZero (0x0C + n.1)).holdReq n := by
  simp [circRequest_eq]
theorem circRequest_release (n : Circ) : u.circRequest n 2 = (u.listZero (0x0C + n.1)).releaseReq n := by
  simp [circRequest_eq]
theorem circRequest_clear (n : Circ) : u.circRequest n 3 = (u.listZero (0x0C + n.1)).clearReq n := by
  simp [circRequest_eq]
theorem circRequest_stopMotor (n : Circ) : u.circRequest n 4 = (u.listZero (0x0C + n.1)).stopMotorReq n := by
  simp [circRequest_eq]

/-- The rows that name a circuit's request, each with its value (R28). -/
theorem exec_circRow {i : Instr} {v : Byte}
    (hi : (i, v) ∈ [(Instr.hold n, (1 : Byte)), (.release n, 2), (.clear n, 3), (.stopMotor n, 4)]) :
    exec i s = .next (s.completeHost (namesCirc n v)) := by
  simp only [List.mem_cons, Prod.mk.injEq, List.not_mem_nil, or_false] at hi
  rcases hi with ⟨rfl, rfl⟩ | ⟨rfl, rfl⟩ | ⟨rfl, rfl⟩ | ⟨rfl, rfl⟩
  all_goals rfl

/-- A write that names a circuit's request takes the requests of all its lanes, lowest first (R17, R28). -/
theorem exec_circRow_lanes {i : Instr} {v : Byte} (h : s.PageWriteAt x ((0x0C + n.1) / 4 * 4))
    (hb : x.be.getLsbD ((0x0C + n.1) % 4) = true)
    (hi : (i, v) ∈ [(Instr.hold n, (1 : Byte)), (.release n, 2), (.clear n, 3), (.stopMotor n, 4)])
    (hv : wordByte x.data ((0x0C + n.1) % 4) = v) :
    exec i s = .next (State.settleBus ((lanesOf x.be).foldl (fun u k => u.takeRequest ((0x0C + n.1) / 4 * 4 + k))
      ((s.landed x).stageWrite ((0x0C + n.1) / 4 * 4) x.be x.data))) := by
  have hn : namesCirc n v s x = true := carries_of h hb (by simpa using hv)
  rw [exec_circRow hi, completeHost_pageWriteAt h hn, pageWrite_beyond _ _ (by omega), takeRequests_eq_foldl]

/-- A write of one circuit's request byte alone requests that of its value (R28). -/
theorem exec_circRow_alone {i : Instr} {v : Byte} (h : s.PageWriteAt x ((0x0C + n.1) / 4 * 4))
    (hbe : x.be = 1#4 <<< ((0x0C + n.1) % 4))
    (hi : (i, v) ∈ [(Instr.hold n, (1 : Byte)), (.release n, 2), (.clear n, 3), (.stopMotor n, 4)])
    (hv : wordByte x.data ((0x0C + n.1) % 4) = v) :
    exec i s = .next
      (((s.landed x).stageWrite ((0x0C + n.1) / 4 * 4) x.be x.data).circRequest n v).settleBus := by
  have hlane : (0x0C + n.1) % 4 < 4 := Nat.mod_lt _ (by decide)
  have hlanes : lanesOf x.be = [(0x0C + n.1) % 4] := by rw [hbe, lanesOf_single hlane]
  have hb : x.be.getLsbD ((0x0C + n.1) % 4) = true := ((mem_lanesOf _ _).1 (by rw [hlanes]; exact List.mem_cons_self)).2
  have hoff : (0x0C + n.1) / 4 * 4 + (0x0C + n.1) % 4 = 0x0C + n.1 := by omega
  have hst := staged8_stageWrite (s := s.landed x) (off := (0x0C + n.1) / 4 * 4) (d := x.data) h.staging hlane hb
  rw [hoff, hv] at hst
  rw [exec_circRow_lanes h hb hi hv, hlanes, List.foldl_cons, List.foldl_nil, hoff, takeRequest_circ, hst]

/-- Settles O23: by the lanes of the write, each of which carries the request of its circuit. -/
theorem circuitRequestsAct : Obligations.CircuitRequestsAct := by
  refine ⟨fun s x n h hbe => ⟨fun hv => ?_, fun hv => ?_, fun hv => ?_, fun hv => ?_⟩,
    fun s x n h hb i v hi hv => exec_circRow_lanes h hb hi hv, fun u n => ?_⟩
  · rw [exec_circRow_alone (i := .hold n) h hbe (by simp) hv, circRequest_hold]
  · rw [exec_circRow_alone (i := .release n) h hbe (by simp) hv, circRequest_release]
  · rw [exec_circRow_alone (i := .clear n) h hbe (by simp) hv, circRequest_clear]
  · rw [exec_circRow_alone (i := .stopMotor n) h hbe (by simp) hv, circRequest_stopMotor]
  · rw [takeRequest_circ, circRequest_eq]
    rfl

/-! ### The story request slot (R29) -/

/-- A write of the page word at offset 8 that enables the kind byte carries the story request alone (R17, R29). -/
theorem pageWrite_story {be : BitVec 4} {d : Word32} (h : be.getLsbD 0 = true)
    (hwf : Memory.wf s.mirror.staging = true) :
    s.pageWrite 8 be d = (s.stageWrite 8 be d).storyRequest (wordByte d 0) := by
  obtain ⟨l, hl, hlanes⟩ := lanesOf_zero h
  have hv : staged8 (s.stageWrite 8 be d).mirror.staging 8 = wordByte d 0 := staged8_stageWrite hwf (by decide) h
  have hrest : ∀ i ∈ l, ∀ u : State, u.takeRequest (8 + i) = u := fun i hi u =>
    have := hlanes i hi
    takeRequest_none (by omega) (by omega) (by omega)
  have hreq : (s.stageWrite 8 be d).takeRequest (8 + 0) = (s.stageWrite 8 be d).storyRequest (wordByte d 0) := by
    rw [← hv]; rfl
  rw [pageWrite_beyond _ _ (by decide), hl, State.takeRequests, hreq, takeRequests_none hrest]

theorem completeHost_story {v : Byte} (h : s.PageWriteAt x 8) (hb : x.be.getLsbD 0 = true) (hv : wordByte x.data 0 = v) :
    s.completeHost (namesStory v) = (((s.landed x).stageWrite 8 x.be x.data).storyRequest v).settleBus := by
  have hn : namesStory v s x = true := carries_of h hb (by simpa using hv)
  rw [completeHost_pageWriteAt h hn, pageWrite_story (s := s.landed x) hb h.staging, hv]

theorem exec_controlPageWrite_story (h : s.PageWriteAt x 8) (hb : x.be.getLsbD 0 = true) :
    exec .controlPageWrite s =
      .next (((s.landed x).stageWrite 8 x.be x.data).storyRequest (wordByte x.data 0)).settleBus := by
  rw [exec_controlPageWrite h, pageWrite_story (s := s.landed x) hb h.staging]

/-- A kind above 3 is only written back (R29). -/
theorem storyRequest_unknown {v : Byte} (h : 4 ≤ v.toNat) : u.storyRequest v = u.listZero 8 := by
  have hne : ∀ k : Byte, k.toNat < 4 → v ≠ k := by
    rintro k hk rfl
    omega
  rw [State.storyRequest, if_neg (hne 0 (by decide)), if_neg (hne 1 (by decide)), if_neg (hne 2 (by decide)),
    if_neg (hne 3 (by decide))]

/-- The staged tag names a story when it is an entry's number and the entry is not FREE (R29). -/
theorem requestTag_iff (t : Tag) :
    u.requestTag = some t ↔ (memRead u.mirror.staging 9).toNat = t.1 ∧ u.story t ≠ none := by
  show u.requestTag = some t ↔ (staged8 u.mirror.staging 9).toNat = t.1 ∧ u.story t ≠ none
  unfold State.requestTag
  by_cases hv : (staged8 u.mirror.staging 9).toNat < 96
  · simp only [dif_pos hv]
    by_cases ht : (staged8 u.mirror.staging 9).toNat = t.1
    · have he : (⟨_, hv⟩ : Tag) = t := Fin.ext ht
      rw [he]
      simp [ht, Option.isSome_iff_ne_none]
    · have he : (⟨_, hv⟩ : Tag) ≠ t := fun h => ht (congrArg Fin.val h)
      simp [ht, he]
  · simp only [dif_neg hv, reduceCtorEq, false_iff, not_and]
    have := t.2
    omega

theorem requestClass_none (h : 4 < (memRead u.mirror.staging 10).toNat) : u.requestClass = none :=
  dif_neg (Nat.not_lt.2 h)

theorem requestClass_some {c : StoryClass} (h : (memRead u.mirror.staging 10).toNat = c.1) :
    u.requestClass = some c :=
  (dif_pos (h.trans_lt c.2)).trans (congrArg some (Fin.ext h))

theorem killTagReq_none (h : u.requestTag = none) : u.killTagReq = u.listResult 1 := by
  simp only [State.killTagReq, h]

theorem killTagReq_some {t : Tag} (h : u.requestTag = some t) : u.killTagReq = (u.listResult 0).killLive .request t := by
  simp only [State.killTagReq, h]

theorem reclassReq_none (h : u.requestTag = none) : u.reclassReq = u.listResult 1 := by
  simp only [State.reclassReq, h]

theorem reclassReq_noClass {t : Tag} (h : u.requestTag = some t) (hc : u.requestClass = none) :
    u.reclassReq = u.listResult 2 := by
  simp only [State.reclassReq, h, hc]

theorem reclassReq_some {t : Tag} {c : StoryClass} (h : u.requestTag = some t) (hc : u.requestClass = some c) :
    u.reclassReq = (u.listResult 0).reclass t c := by
  simp only [State.reclassReq, h, hc]

/-- The write-back of a result touches the write list only. -/
theorem listResult_sameBlocks (x : Txn) (off k : Nat) :
    s.SameBlocks ((((s.landed x).stageWrite off x.be x.data).listResult k).settleBus) :=
  settleBus_sameBlocks (sameBlocks_update _ _ _)

/-- Settles O24: by the kind the write stages, then by the tag and the class staged with it. -/
theorem storyRequestsAct : Obligations.StoryRequestsAct := by
  refine ⟨fun s x h hb => ⟨fun hv => congrArg Host.Outcome.next (completeHost_story h hb hv),
    fun hv => congrArg Host.Outcome.next (completeHost_story h hb hv),
    fun hv => congrArg Host.Outcome.next (completeHost_story h hb hv), fun hnone => ⟨fun hv => ?_, fun hv => ?_⟩,
    fun hv => ?_, fun hv => ?_⟩,
    fun u => ⟨requestTag_iff, fun hnone => ⟨killTagReq_none hnone, reclassReq_none hnone⟩,
      fun t ht => ⟨killTagReq_some ht, fun hc => reclassReq_noClass ht (requestClass_none hc),
        fun c hc => reclassReq_some ht (requestClass_some hc)⟩⟩⟩
  · refine ⟨_, congrArg Host.Outcome.next (completeHost_story h hb hv), ?_⟩
    show s.SameBlocks ((s.landed x).stageWrite 8 x.be x.data).killTagReq.settleBus
    rw [killTagReq_none hnone]
    exact listResult_sameBlocks x 8 1
  · refine ⟨_, congrArg Host.Outcome.next (completeHost_story h hb hv), ?_⟩
    show s.SameBlocks ((s.landed x).stageWrite 8 x.be x.data).reclassReq.settleBus
    rw [reclassReq_none hnone]
    exact listResult_sameBlocks x 8 1
  · rw [exec_controlPageWrite_story h hb, storyRequest_unknown hv]
    rfl
  · rw [exec_controlPageWrite_story h hb, hv]
    rfl

end
end Sys2Proof.Machine
end

section
namespace Sys2Proof.Machine

/-! ### The words of a snapshot (R29, R30) -/

section
variable {s u : State} {x : Txn}

/-- The writing of the snapshot has ended: its answer is listed, result 0 and the 0 of the kind in one word (R29). -/
def State.snapAnswered (s : State) : State :=
  State.listBytes { s with mirror := { s.mirror with snap := none } } 8 0b1001 0

theorem snapWord_more {j : SnapJob} (hj : s.mirror.snap = some j) (h : j.next + 1 < j.words.length) :
    s.snapWord = { s with mirror := { s.mirror with snap := some { j with next := j.next + 1 } } } := by
  simp only [State.snapWord, hj]
  exact if_pos h

theorem snapWord_last {j : SnapJob} (hj : s.mirror.snap = some j) (h : j.words.length ≤ j.next + 1) :
    s.snapWord = if j.waiting then s.snapAnswered.capture else s.snapAnswered := by
  simp only [State.snapWord, hj]
  exact if_neg (Nat.not_lt.2 h)

theorem snapComplete_eq {o : Bool} (hp : s.bus.port = some { by_ := .mirror .snap, txn := x, orphan := o }) :
    s.snapComplete = (s.written x).snapWord.settleBus := by
  simp only [State.snapComplete, hp]
  rfl

/-- Settles O59: by whether the word is the last, and by whether a further snapshot waits. -/
theorem snapshotWordCompletes : Obligations.SnapshotWordCompletes := by
  intro s x o j hp hj
  have hexec : exec .snapshotWordWrite s = .next (s.written x).snapWord.settleBus :=
    congrArg Host.Outcome.next (snapComplete_eq hp)
  obtain ⟨l, r, hm⟩ := settleBus_mirror (s.written x).snapWord
  have hlast := snapWord_last (s := s.written x) hj
  refine ⟨fun h => hexec.trans ?_, _, hexec, ?_, settleBus_sameBlocks ?_, ?_, fun h => ?_, fun h hw => ?_, fun h hw => ?_⟩
  · rw [hlast h]
    rfl
  · rw [settleBus_mem]
    exact congrArg (fun o => o.2.1) (outer_snapWord _)
  · rcases Nat.lt_or_ge (j.next + 1) j.words.length with h | h
    · rw [snapWord_more (s := s.written x) hj h]
      exact sameBlocks_update _ _ _
    · rw [hlast h]
      split
      · exact sameBlocks_update _ _ _
      · exact sameBlocks_update _ _ _
  · rw [settleBus_staging]
    exact congrArg (fun o => o.2.2.1) (outer_snapWord _)
  · rw [hm, snapWord_more (s := s.written x) hj h]
    exact ⟨rfl, rfl⟩
  · rw [hm, hlast h, hw]
    exact ⟨rfl, rfl⟩
  · rw [hm, hlast h, hw]
    exact ⟨rfl, rfl⟩

end
end Sys2Proof.Machine
end

section
namespace Sys2Proof.Machine

/-! ### The bytes of a snapshot (R30, R172) -/

section

/-- Byte j of bus words in memory order (R168). -/
def byteAt (ws : List Word32) (j : Nat) : Byte := wordByte (ws.getD (j / 4) 0) (j % 4)

theorem byteAt_nil (j : Nat) : byteAt [] j = 0 := by
  simp [byteAt, wordByte]

theorem byteAt_cons_lane (w : Word32) (ws : List Word32) {j : Nat} (h : j < 4) : byteAt (w :: ws) j = wordByte w j := by
  rw [byteAt, Nat.div_eq_of_lt h, Nat.mod_eq_of_lt h]
  rfl

theorem byteAt_cons_next (w : Word32) (ws : List Word32) (j : Nat) : byteAt (w :: ws) (j + 4) = byteAt ws j := by
  rw [byteAt, byteAt, Nat.add_div_right j (by decide), Nat.add_mod_right]
  rfl

theorem byteAt_append_left {a : List Word32} (b : List Word32) {j : Nat} (h : j < 4 * a.length) :
    byteAt (a ++ b) j = byteAt a j := by
  rw [byteAt, byteAt, List.getD_append _ _ _ _ (by omega)]

theorem byteAt_append_right (a b : List Word32) (j : Nat) : byteAt (a ++ b) (4 * a.length + j) = byteAt b j := by
  rw [byteAt, byteAt, List.getD_append_right _ _ _ _ (by omega), show (4 * a.length + j) % 4 = j % 4 by omega,
    show (4 * a.length + j) / 4 - a.length = j / 4 by omega]

/-- Bytes taken four at a time as words stand in memory as they were. -/
theorem byteAt_wordsOf {l : List Byte} (h : 4 ∣ l.length) (j : Nat) : byteAt (wordsOf l) j = l.getD j 0 := by
  induction l using wordsOf.induct generalizing j with
  | case1 a b c d r ih =>
    rw [wordsOf]
    rcases Nat.lt_or_ge j 4 with hj | hj
    · rw [byteAt_cons_lane _ _ hj, wordByte_wordOf _ _ _ _ hj]
      obtain rfl | rfl | rfl | rfl : j = 0 ∨ j = 1 ∨ j = 2 ∨ j = 3 := by omega
      all_goals rfl
    · obtain ⟨k, rfl⟩ := Nat.exists_eq_add_of_le' hj
      have hr : 4 ∣ r.length := by simp only [List.length_cons] at h; omega
      rw [byteAt_cons_next, ih hr]
      rfl
  | case2 l hl =>
    have hnil : l = [] := by
      match l, hl with
      | [], _ => rfl
      | [_], _ => simp at h
      | [_, _], _ => simp at h
      | [_, _, _], _ => simp at h
      | a :: b :: c :: d :: r, hl => exact absurd rfl (hl a b c d r)
    subst hnil
    exact byteAt_nil j

theorem length_wordsOf {l : List Byte} (h : l.length = 16) : (wordsOf l).length = 4 := by
  match l, h with
  | [_, _, _, _, _, _, _, _, _, _, _, _, _, _, _, _], _ => rfl

/-- Records of four words stand one behind the other. -/
theorem byteAt_flatMap {α : Type} {f : α → List Word32} (hf : ∀ a, (f a).length = 4) {l : List α} {i k : Nat} {a : α}
    (hk : k < 16) (hi : l[i]? = some a) : byteAt (l.flatMap f) (16 * i + k) = byteAt (f a) k := by
  induction l generalizing i with
  | nil => simp at hi
  | cons c cs ih =>
    rw [List.flatMap_cons]
    cases i with
    | zero =>
      obtain rfl : c = a := by simpa using hi
      rw [Nat.mul_zero, Nat.zero_add, byteAt_append_left _ (by rw [hf]; exact hk)]
    | succ i =>
      rw [show 16 * (i + 1) + k = 4 * (f c).length + (16 * i + k) by rw [hf]; ring, byteAt_append_right]
      exact ih (by simpa using hi)

theorem length_flatMap_four {α : Type} {f : α → List Word32} (hf : ∀ a, (f a).length = 4) (l : List α) :
    (l.flatMap f).length = 4 * l.length := by
  simp [List.length_flatMap, hf, Nat.mul_comm]

theorem length_record (c : Circuit) : c.record.length = 16 := by
  unfold Circuit.record
  split <;> rfl

theorem length_summaryOf (t : Tag) (x : Option Story) : (summaryOf t x).length = 16 := by
  cases x <;> rfl

variable (s : State) (count : Word32)

theorem length_circuitWords : (allCircs.flatMap fun n => wordsOf (s.circ n).record).length = 32 :=
  length_flatMap_four (fun n => length_wordsOf (length_record (s.circ n))) allCircs

theorem length_storyWords : (allTags.flatMap fun t => wordsOf (summaryOf t (s.story t))).length = 384 :=
  (length_flatMap_four (fun t => length_wordsOf (length_summaryOf t (s.story t))) allTags).trans
    (by simp [allTags])

/-- The words after the circuit records. -/
theorem byteAt_snapWords_stories (j : Nat) : byteAt (s.snapWords count) (128 + j) =
    byteAt ((allTags.flatMap fun t => wordsOf (summaryOf t (s.story t))) ++ [count, 0, 0, 0]) j := by
  have h := byteAt_append_right (allCircs.flatMap fun n => wordsOf (s.circ n).record)
    ((allTags.flatMap fun t => wordsOf (summaryOf t (s.story t))) ++ [count, 0, 0, 0]) j
  rw [length_circuitWords, ← List.append_assoc] at h
  exact h

/-- Byte k of circuit n's record (R172). -/
theorem byteAt_snapWords_circ (n : Circ) {k : Nat} (hk : k < 16) :
    byteAt (s.snapWords count) (16 * n.1 + k) = (s.circ n).record.getD k 0 := by
  have hn : allCircs[n.1]? = some n := by revert n; decide
  have hlt := n.2
  rw [State.snapWords, List.append_assoc, byteAt_append_left _ (by rw [length_circuitWords]; omega),
    byteAt_flatMap (fun m => length_wordsOf (length_record (s.circ m))) hk hn,
    byteAt_wordsOf (by rw [length_record]; decide)]

/-- Byte k of story t's summary (R172). -/
theorem byteAt_snapWords_story (t : Tag) {k : Nat} (hk : k < 16) :
    byteAt (s.snapWords count) (128 + 16 * t.1 + k) = (summaryOf t (s.story t)).getD k 0 := by
  have ht : allTags[t.1]? = some t := by simp [allTags]
  have hlt := t.2
  rw [Nat.add_assoc, byteAt_snapWords_stories, byteAt_append_left _ (by rw [length_storyWords]; omega),
    byteAt_flatMap (fun u => length_wordsOf (length_summaryOf u (s.story u))) hk ht,
    byteAt_wordsOf (by rw [length_summaryOf]; decide)]

/-- The header's bytes (R172). -/
theorem byteAt_snapWords_header (i : Nat) :
    byteAt (s.snapWords count) (1664 + i) = byteAt [count, 0, 0, 0] i := by
  have h := byteAt_append_right (allTags.flatMap fun t => wordsOf (summaryOf t (s.story t))) [count, 0, 0, 0] i
  rw [length_storyWords] at h
  rw [show 1664 + i = 128 + (4 * 384 + i) by omega, byteAt_snapWords_stories, h]

theorem length_snapWords : (s.snapWords count).length = 420 := by
  simp only [State.snapWords, List.length_append, length_circuitWords, length_storyWords]
  rfl

end

/-! ### The circuit record, the story summary and the header -/

section

/-- The fields of a circuit record before the capture (R172). -/
theorem record_fields (c : Circuit) :
    c.record.getD 0 0 = byteN c.lu.state.code ∧ c.record.getD 1 0 = byteN c.sch.queue.length ∧
    c.record.getD 2 0 = itemByte c.sch.item ∧ c.record.getD 3 0 = byteN c.snd.column ∧
    c.record.getD 4 0 = byteN (planeNum c.snd.plane) ∧ c.record.getD 5 0 = c.snd.lineCount.extractLsb' 0 8 ∧
    c.record.getD 6 0 = c.snd.lineCount.extractLsb' 8 8 := by
  unfold Circuit.record
  split <;> exact ⟨rfl, rfl, rfl, rfl, rfl, rfl, rfl⟩

theorem record_noCapture {c : Circuit} (h : c.lu.capture = none) :
    c.record.getD 7 0 = 0 ∧ c.record.getD 8 0 = 0 ∧ c.record.getD 9 0 = 0 := by
  unfold Circuit.record
  rw [h]
  exact ⟨rfl, rfl, rfl⟩

theorem record_capture {c : Circuit} {r : Capture} (h : c.lu.capture = some r) :
    c.record.getD 7 0 = byteN r.origin.code ∧ c.record.getD 8 0 = r.lineCount.extractLsb' 0 8 ∧
      c.record.getD 9 0 = r.lineCount.extractLsb' 8 8 := by
  unfold Circuit.record
  rw [h]
  exact ⟨rfl, rfl, rfl⟩

theorem record_rest (c : Circuit) {i : Nat} (h : 10 ≤ i) (h' : i < 16) : c.record.getD i 0 = 0 := by
  unfold Circuit.record
  split <;> interval_cases i <;> rfl

/-- The summary of a FREE entry (R172). -/
theorem summary_free (t : Tag) {i : Nat} (h : 2 ≤ i) (h' : i < 14) : (summaryOf t none).getD i 0 = 0xFF := by
  interval_cases i <;> rfl

theorem summary_ends (t : Tag) (x : Option Story) : (summaryOf t x).getD 0 0 = byteN t.1 ∧
    (summaryOf t x).getD 14 0 = 0 ∧ (summaryOf t x).getD 15 0 = 0 := by
  cases x <;> exact ⟨rfl, rfl, rfl⟩

/-- The summary of a live story (R172). -/
theorem summary_live (t : Tag) (st : Story) :
    (summaryOf t (some st)).getD 1 0 = byteN st.state.code ∧ (summaryOf t (some st)).getD 2 0 = byteN st.cls.1 ∧
    (summaryOf t (some st)).getD 3 0 = byteN st.feed.1 ∧
    (summaryOf t (some st)).getD 4 0 = (optNumber st.number).extractLsb' 0 8 ∧
    (summaryOf t (some st)).getD 5 0 = (optNumber st.number).extractLsb' 8 8 :=
  ⟨rfl, rfl, rfl, rfl, rfl⟩

theorem summary_delivery (t : Tag) (st : Story) (n : Circ) :
    (summaryOf t (some st)).getD (6 + n.1) 0 = st.deliveryByte n := by
  fin_cases n <;> rfl

theorem byteAt_header_count (k : Word32) {i : Nat} (h : i < 4) : byteAt [k, 0, 0, 0] i = wordByte k i :=
  byteAt_cons_lane k _ h

theorem byteAt_header_rest (k : Word32) {i : Nat} (h : 4 ≤ i) (h' : i < 16) : byteAt [k, 0, 0, 0] i = 0 := by
  have hzero : ∀ j < 12, byteAt [0, 0, 0] j = 0 := by decide
  obtain ⟨j, rfl⟩ := Nat.exists_eq_add_of_le' h
  rw [byteAt_cons_next]
  exact hzero j (by omega)

end

/-! ### The capture (R30) -/

section
variable {s u : State} {x : Txn}

theorem snapshotReq_free (h : u.mirror.snap = none) : u.snapshotReq = u.capture := by
  simp only [State.snapshotReq, h]

theorem snapshotReq_busy {j : SnapJob} (h : u.mirror.snap = some j) :
    u.snapshotReq = { u with mirror := { u.mirror with snap := some { j with waiting := true } } } := by
  simp only [State.snapshotReq, h]

/-- SNAPSHOT: captured with none in writing, else kept waiting (R30). -/
theorem exec_snapshot (h : s.PageWriteAt x 8) (hb : x.be.getLsbD 0 = true) (hv : wordByte x.data 0 = 3) :
    ∃ t, exec .snapshot s = .next t ∧ s.SameBlocks t ∧
      (s.mirror.snap = none → t.mirror.snapCount = s.mirror.snapCount + 1 ∧
        t.mirror.snap = some { words := s.snapWords (s.mirror.snapCount + 1), next := 0, waiting := false }) ∧
      (∀ j, s.mirror.snap = some j → t.mirror.snapCount = s.mirror.snapCount ∧
        t.mirror.snap = some { j with waiting := true }) := by
  have hexec : exec .snapshot s = .next ((s.landed x).stageWrite 8 x.be x.data).snapshotReq.settleBus :=
    congrArg Host.Outcome.next (completeHost_story h hb hv)
  obtain ⟨l, r, hm⟩ := settleBus_mirror ((s.landed x).stageWrite 8 x.be x.data).snapshotReq
  refine ⟨_, hexec, settleBus_sameBlocks ?_, fun hnone => ?_, fun j hj => ?_⟩
  · unfold State.snapshotReq
    split <;> exact sameBlocks_update _ _ _
  · rw [hm, snapshotReq_free (u := (s.landed x).stageWrite 8 x.be x.data) hnone]
    exact ⟨rfl, rfl⟩
  · rw [hm, snapshotReq_busy (u := (s.landed x).stageWrite 8 x.be x.data) hj]
    exact ⟨rfl, rfl⟩

/-- Settles O28: the request captures, and the captured words are the records, the summaries and the header in turn. -/
theorem snapshotIsCaptured : Obligations.SnapshotIsCaptured := by
  refine ⟨fun s x => exec_snapshot, fun s k => ?_, fun j hj => ?_, fun j hj => ?_, rfl, rfl, rfl, rfl,
    fun o => rfl, fun k => ⟨rfl, rfl⟩, rfl⟩
  case refine_2 => exact if_pos hj
  case refine_3 => rw [snapOffset, if_neg (by omega), Nat.add_sub_cancel_left]
  intro b
  refine ⟨length_snapWords s k, fun n => ?_, fun t => ?_,
    fun i hi => (byteAt_snapWords_header s k i).trans (byteAt_header_count k hi),
    fun i hi hi' => (byteAt_snapWords_header s k i).trans (byteAt_header_rest k hi hi')⟩
  · have hb : ∀ i, i < 16 → b (16 * n.1 + i) = (s.circ n).record.getD i 0 := fun i hi => byteAt_snapWords_circ s k n hi
    obtain ⟨h0, h1, h2, h3, h4, h5, h6⟩ := record_fields (s.circ n)
    refine ⟨(hb 0 (by decide)).trans h0, (hb 1 (by decide)).trans h1, ((hb 2 (by decide)).trans h2).trans ?_,
      (hb 3 (by decide)).trans h3, (hb 4 (by decide)).trans h4, (hb 5 (by decide)).trans h5,
      (hb 6 (by decide)).trans h6, fun hc => ?_, fun r hc => ?_,
      fun i hi hi' => (hb i hi').trans (record_rest (s.circ n) hi hi')⟩
    · unfold itemByte
      rfl
    · rw [hb 7 (by decide), hb 8 (by decide), hb 9 (by decide)]
      exact record_noCapture hc
    · rw [hb 7 (by decide), hb 8 (by decide), hb 9 (by decide)]
      exact record_capture hc
  · have hb : ∀ i, i < 16 → b (128 + 16 * t.1 + i) = (summaryOf t (s.story t)).getD i 0 := fun i hi =>
      byteAt_snapWords_story s k t hi
    obtain ⟨h0, h14, h15⟩ := summary_ends t (s.story t)
    refine ⟨(hb 0 (by decide)).trans h0, (hb 14 (by decide)).trans h14, (hb 15 (by decide)).trans h15, fun hfree => ?_,
      fun st hst => ?_⟩
    · rw [hfree] at hb
      exact ⟨hb 1 (by decide), fun i hi hi' => (hb i (by omega)).trans (summary_free t hi hi')⟩
    · rw [hst] at hb
      obtain ⟨h1, h2, h3, h4, h5⟩ := summary_live t st
      refine ⟨(hb 1 (by decide)).trans h1, (hb 2 (by decide)).trans h2, (hb 3 (by decide)).trans h3, fun hn => ?_,
        fun m hn => ?_, fun n => ?_⟩
      · rw [hb 4 (by decide), hb 5 (by decide), h4, h5, hn]
        exact ⟨rfl, rfl⟩
      · rw [hb 4 (by decide), hb 5 (by decide), h4, h5, hn]
        exact ⟨rfl, rfl⟩
      · have hn := n.2
        have h6 := (hb (6 + n.1) (by omega)).trans (summary_delivery t st n)
        rw [← Nat.add_assoc] at h6
        refine ⟨fun hd => h6.trans ?_, fun d hd => h6.trans ?_⟩
        · rw [Story.deliveryByte, hd]
        · rw [Story.deliveryByte, hd]

end
end Sys2Proof.Machine
end

section
namespace Sys2Proof.Machine

/-! ### What the reports of an apply leave alone -/

section
variable {s u : State}

theorem pumpReports_told : Told s s.pumpReports := beginQueued_told _

/-- The completion of an apply reaches what a report reaches, and the apply state (R26). -/
theorem applyCheck_told : ∃ p, Told { s with mirror := { s.mirror with applyPending := p } } s.applyCheck := by
  unfold State.applyCheck
  split
  · exact ⟨false, Told.trans ⟨_, _, _, rfl⟩ (post_told _)⟩
  · exact ⟨s.mirror.applyPending, .refl s⟩

theorem applyCheck_keeps {α : Type} (f : State → α)
    (hf : ∀ w l b p, f { s with
      writer := w, mirror := { s.mirror with writeList := l, resetWait := b, applyPending := p } } = f s) :
    f s.applyCheck = f s := by
  obtain ⟨p, w, l, b, h⟩ := applyCheck_told (s := s)
  rw [h]
  exact hf w l b p

/-- The ring is replaced, and the queued reports go on in it (R164). -/
theorem setRing_told (w : Option Win) : Told { s with applied := { s.applied with ring := w } } (s.setRing w) :=
  (setWriter_told _).trans pumpReports_told

end

/-! ### The re-examination of vacated parts (R22, R23) -/

section
variable {s : State} {β : Type} {key : State → β} {P : β → Prop}

/-- A fold of operations that each keep what the key reads, as long as the key passes. -/
theorem foldl_keeps {α : Type} {op : State → α → State} (h : ∀ s a, P (key s) → key (op s a) = key s) (l : List α)
    (hs : P (key s)) : key (l.foldl op s) = key s := by
  induction l generalizing s with
  | nil => rfl
  | cons a l ih =>
    have ha := h s a hs
    rw [List.foldl_cons, ih (by rw [ha]; exact hs), ha]

/-- What the retry of each vacated part keeps, the re-examination keeps. -/
theorem reexamine_keeps (hw : ∀ s f, P (key s) → key (State.retryWin s f) = key s)
    (hr : ∀ s, P (key s) → key (State.retryRing s) = key s) (hs : P (key s)) : key s.reexamine = key s := by
  have hall : ∀ s, P (key s) → key (State.retryAll s) = key s := fun s hs => by
    have hwins := foldl_keeps hw allFeeds hs
    rw [State.retryAll, hr _ (by rw [hwins]; exact hs), hwins]
  have htimes : ∀ k s, P (key s) → key (State.retryTimes k s) = key s := by
    intro k
    induction k with
    | zero => exact fun _ _ => rfl
    | succ k ih =>
      intro s hs
      have ha := hall s hs
      rw [State.retryTimes, ih _ (by rw [ha]; exact hs), ha]
  unfold State.reexamine
  split
  · exact htimes 13 s hs
  · rfl

/-- With nothing vacated there is nothing to re-examine. -/
theorem reexamine_none (hr : s.mirror.pendRing ≠ .vacated) (hw : ∀ f, vget s.mirror.pendWin f ≠ .vacated) :
    s.reexamine = s := by
  refine if_neg ?_
  simp [hr, hw]

end

/-! ### The window parts (R21 to R24) -/

section
variable {s : State} {f g : Feed}

/-- What a window part concerns: the feed's applied entry, its context, its account and the part's mark. -/
structure Desk where
  cfg : FeedCfg
  ctx : FeedCtx
  acct : Account
  mark : PartMark

def State.desk (s : State) (f : Feed) : Desk := ⟨s.fcfg f, s.ctx f, s.acct f, vget s.mirror.pendWin f⟩

theorem desk_told {u : State} (h : Told s u) (f : Feed) : u.desk f = s.desk f :=
  h.keeps (State.desk · f) fun _ _ _ => rfl

theorem desk_applyCheck (f : Feed) : s.applyCheck.desk f = s.desk f :=
  applyCheck_keeps (State.desk · f) fun _ _ _ _ => rfl

theorem desk_setRing (w : Option Win) (f : Feed) : (s.setRing w).desk f = s.desk f := desk_told (setRing_told w) f

/-- The entry after a window part is taken or vacated (R23, R24). -/
theorem desk_setWindow_same (w : Option Win) (p : PartMark) : ((s.setWindow f w).setMarkWin f p).desk f =
    { cfg := { s.fcfg f with win := w }, ctx := FeedCtx.start, acct := Account.start, mark := p } := by
  simp [State.desk, State.setWindow, State.setMarkWin, State.fcfg, State.ctx, State.acct, State.setFcfg, State.setCtx,
    State.setAcct]

theorem desk_setWindow_ne (h : g ≠ f) (w : Option Win) (p : PartMark) :
    ((s.setWindow f w).setMarkWin f p).desk g = s.desk g := by
  simp [State.desk, State.setWindow, State.setMarkWin, State.fcfg, State.ctx, State.acct, State.setFcfg, State.setCtx,
    State.setAcct, Ne.symm h]

theorem desk_setMarkWin_same (p : PartMark) : (s.setMarkWin f p).desk f = { s.desk f with mark := p } := by
  simp [State.desk, State.setMarkWin, State.fcfg, State.ctx, State.acct]

/-- The retry of a vacated window part leaves every other entry alone, and an entry that is not vacated. -/
theorem desk_retryWin (h : (s.desk f).mark ≠ .vacated) : (s.retryWin g).desk f = s.desk f := by
  unfold State.retryWin
  split
  · rename_i hc
    have hg : vget s.mirror.pendWin g = .vacated := by simpa using (Bool.and_eq_true_iff.1 hc).1
    have hne : f ≠ g := by
      rintro rfl
      exact h hg
    exact desk_setWindow_ne hne _ _
  · rfl

theorem desk_retryRing : s.retryRing.desk f = s.desk f := by
  unfold State.retryRing
  split
  · exact desk_setRing _ f
  · rfl

theorem desk_reexamine (h : (s.desk f).mark ≠ .vacated) : s.reexamine.desk f = s.desk f :=
  reexamine_keeps (key := (State.desk · f)) (P := fun d => d.mark ≠ .vacated) (fun _ _ => desk_retryWin)
    (fun _ _ => desk_retryRing) h

/-- A window part not pending, or whose condition does not hold, stays as it is (R22). -/
theorem tryWin_idle (h : vget s.mirror.pendWin f = .clear ∨ s.winCond f = false) : s.tryWin f = s :=
  if_neg (by rcases h with h | h <;> simp [h])

theorem tryWin_examined (hp : vget s.mirror.pendWin f ≠ .clear) (hc : s.winCond f = true) :
    s.tryWin f = s.examineWin f := if_pos (by simp [hp, hc])

/-- The three ways of a window part that is examined: dropped, vacated, taken (R22, R23). -/
theorem examineWin_same (h : stagedWin s.mirror.staging f = (s.fcfg f).win) :
    s.examineWin f = ((s.setMarkWin f .clear).reexamine).applyCheck := if_pos h

theorem examineWin_blocked (h : stagedWin s.mirror.staging f ≠ (s.fcfg f).win)
    (hb : s.winBlocked f (stagedWin s.mirror.staging f) = true) :
    s.examineWin f = (s.setWindow f none).setMarkWin f .vacated := (if_neg h).trans (if_pos hb)

theorem examineWin_free (h : stagedWin s.mirror.staging f ≠ (s.fcfg f).win)
    (hb : s.winBlocked f (stagedWin s.mirror.staging f) = false) : s.examineWin f =
      (((s.setWindow f (stagedWin s.mirror.staging f)).setMarkWin f .clear).reexamine).applyCheck :=
  (if_neg h).trans (if_neg (by simp [hb]))

theorem desk_examineWin_same (h : stagedWin s.mirror.staging f = (s.fcfg f).win) :
    (s.examineWin f).desk f = { s.desk f with mark := .clear } := by
  have hd := desk_setMarkWin_same (s := s) (f := f) .clear
  rw [examineWin_same h, desk_applyCheck, desk_reexamine (by rw [hd]; simp), hd]

theorem desk_examineWin_free (h : stagedWin s.mirror.staging f ≠ (s.fcfg f).win)
    (hb : s.winBlocked f (stagedWin s.mirror.staging f) = false) : (s.examineWin f).desk f =
      { cfg := { s.fcfg f with win := stagedWin s.mirror.staging f }, ctx := FeedCtx.start, acct := Account.start
        mark := .clear } := by
  have hd := desk_setWindow_same (s := s) (f := f) (stagedWin s.mirror.staging f) .clear
  rw [examineWin_free h hb, desk_applyCheck, desk_reexamine (by rw [hd]; simp), hd]

/-- With no other part vacated, a window part taken leaves the other feeds alone. -/
theorem desk_examineWin_others (h : stagedWin s.mirror.staging f ≠ (s.fcfg f).win)
    (hb : s.winBlocked f (stagedWin s.mirror.staging f) = false)
    (hw : ∀ g, g ≠ f → vget s.mirror.pendWin g ≠ .vacated) (hr : s.mirror.pendRing ≠ .vacated) (hg : g ≠ f) :
    (s.examineWin f).desk g = s.desk g := by
  have hnone : ((s.setWindow f (stagedWin s.mirror.staging f)).setMarkWin f .clear).reexamine =
      (s.setWindow f (stagedWin s.mirror.staging f)).setMarkWin f .clear := by
    refine reexamine_none (by exact hr) fun k => ?_
    show vget (vset s.mirror.pendWin f .clear) k ≠ .vacated
    rw [vget_vset]
    split
    · simp
    · rename_i hk
      exact hw k (Ne.symm hk)
  rw [examineWin_free h hb, desk_applyCheck, hnone, desk_setWindow_ne hg]

end

/-! ### The report ring part (R21 to R24, R164) -/

section
variable {s : State}

/-- What the ring part concerns: the applied ring and the part's mark. -/
def State.ringPart (s : State) : Option Win × PartMark := (s.applied.ring, s.mirror.pendRing)

theorem ringPart_applyCheck : s.applyCheck.ringPart = s.ringPart := applyCheck_keeps State.ringPart fun _ _ _ _ => rfl

theorem setRing_ring (w : Option Win) : (s.setRing w).applied.ring = w :=
  (setRing_told w).keeps (fun u => u.applied.ring) fun _ _ _ => rfl

theorem ringPart_retryWin (f : Feed) : (s.retryWin f).ringPart = s.ringPart := by
  unfold State.retryWin
  split <;> rfl

theorem ringPart_retryRing (h : s.ringPart.2 ≠ .vacated) : s.retryRing.ringPart = s.ringPart := by
  have hp : s.mirror.pendRing ≠ .vacated := h
  rw [State.retryRing, if_neg (by simp [hp])]

theorem ringPart_reexamine (h : s.ringPart.2 ≠ .vacated) : s.reexamine.ringPart = s.ringPart :=
  reexamine_keeps (key := State.ringPart) (P := fun r => r.2 ≠ .vacated) (fun _ f _ => ringPart_retryWin f)
    (fun _ => ringPart_retryRing) h

theorem ringCond_iff : s.ringCond = true ↔ s.writer.count = 0 ∧ s.writer.rec_ = none := by
  simp [State.ringCond]

/-- The ring part not pending, or with a record unconsumed or in writing, stays as it is (R22). -/
theorem tryRing_idle (h : s.mirror.pendRing = .clear ∨ 0 < s.writer.count ∨ s.writer.rec_ ≠ none) : s.tryRing = s := by
  refine if_neg ?_
  rw [Bool.and_eq_true, ringCond_iff]
  rintro ⟨hp, hc, hr⟩
  rcases h with h | h | h
  · simp [h] at hp
  · omega
  · exact h hr

theorem tryRing_examined (hp : s.mirror.pendRing ≠ .clear) (hc : s.writer.count = 0) (hr : s.writer.rec_ = none) :
    s.tryRing = s.examineRing :=
  if_pos (by rw [ringCond_iff.2 ⟨hc, hr⟩]; simpa using hp)

/-- The three ways of the ring part: dropped, vacated, taken (R22, R23). -/
theorem ringPart_examineRing_same (h : stagedRing s.mirror.staging = s.applied.ring) :
    s.examineRing.ringPart = (s.applied.ring, .clear) := by
  have he : s.examineRing = ((s.setMarkRing .clear).reexamine).applyCheck := if_pos h
  rw [he, ringPart_applyCheck, ringPart_reexamine (by simp [State.ringPart, State.setMarkRing])]
  rfl

theorem ringPart_examineRing_free (h : stagedRing s.mirror.staging ≠ s.applied.ring)
    (hb : s.ringBlocked (stagedRing s.mirror.staging) = false) :
    s.examineRing.ringPart = (stagedRing s.mirror.staging, .clear) := by
  have he : s.examineRing =
      (((s.setRing (stagedRing s.mirror.staging)).setMarkRing .clear).reexamine).applyCheck :=
    (if_neg h).trans (if_neg (by simp [hb]))
  rw [he, ringPart_applyCheck, ringPart_reexamine (by simp [State.ringPart, State.setMarkRing])]
  exact congrArg (·, PartMark.clear) (setRing_ring _)

theorem examineRing_blocked (h : stagedRing s.mirror.staging ≠ s.applied.ring)
    (hb : s.ringBlocked (stagedRing s.mirror.staging) = true) :
    s.examineRing = (s.setRing none).setMarkRing .vacated := (if_neg h).trans (if_pos hb)

/-- With no ring every queued report is dropped and counted (R162, R164). -/
theorem beginQueued_noRing {l : List Report} (ha : s.applied.ring = none) (hr : s.writer.rec_ = none)
    (hq : s.writer.queue = l) : (s.beginQueued l).writer =
      { s.writer with queue := [], lost := l.foldl (fun k _ => satInc 65535 k) s.writer.lost } := by
  induction l generalizing s with
  | nil =>
    show s.writer = { s.writer with queue := [] }
    rw [← hq]
  | cons r rs ih =>
    have hdrop : (s.setWriter { s.writer with queue := rs }).beginReport r =
        (s.setWriter { s.writer with queue := rs }).dropReport r :=
      if_neg (by simp [State.ringOpen, ha])
    have hw := dropReport_writer (s := s.setWriter { s.writer with queue := rs }) r
    have hring : ((s.setWriter { s.writer with queue := rs }).dropReport r).applied.ring = none :=
      ((dropReport_told r).keeps (fun u => u.applied.ring) fun _ _ _ => rfl).trans ha
    rw [State.beginQueued, if_neg (by simp [hr]), hdrop,
      ih hring (by rw [hw]; exact hr) (by rw [hw]; rfl), hw]
    rfl

theorem setRing_none_writer (hr : s.writer.rec_ = none) : (s.setRing none).writer = { s.writer with
    queue := [], head := 0, tail := 0, count := 0, flags := [], attn := 0
    lost := s.writer.queue.foldl (fun k _ => satInc 65535 k) s.writer.lost } :=
  beginQueued_noRing (s := State.setWriter { s with applied := { s.applied with ring := none } } { s.writer with
    head := 0, tail := 0, count := 0, flags := [], attn := 0 }) rfl hr rfl

end
end Sys2Proof.Machine
end

section
namespace Sys2Proof.Machine

/-! ### The start of an apply and its completion (R21, R26, R85) -/

section
variable {s : State} {f : Feed}

theorem setAcct_self (f : Feed) : s.setAcct f (s.acct f) = s := by
  simp [State.setAcct, State.acct, vset, vget]

/-- The warning test moves the feed's warning state and tells of it (R80). -/
theorem warnTest_told : ∃ b, Told (s.setAcct f { s.acct f with warn := b }) (s.warnTest f) := by
  have hself : s.setAcct f { s.acct f with warn := (s.acct f).warn } = s := setAcct_self f
  have hs : Told (s.setAcct f { s.acct f with warn := (s.acct f).warn }) s := by rw [hself]; exact .refl s
  simp only [State.warnTest]
  (repeat' split)
  · exact ⟨_, post_told _⟩
  · exact ⟨_, hs⟩
  · exact ⟨_, post_told _⟩
  · exact ⟨_, hs⟩

theorem warnTest_applied : (s.warnTest f).applied = s.applied := by
  obtain ⟨b, h⟩ := warnTest_told (s := s) (f := f)
  exact h.keeps State.applied fun _ _ _ => rfl

theorem warnTest_blocked : ((s.warnTest f).acct f).blocked = (s.acct f).blocked := by
  obtain ⟨b, h⟩ := warnTest_told (s := s) (f := f)
  exact (h.keeps (fun u => (u.acct f).blocked) fun _ _ _ => rfl).trans
    (by rw [acct_setAcct_same])

theorem takeLevels_same (h : stagedLevels s.mirror.staging f = (s.fcfg f).levels) : s.takeLevels f = s := if_pos h

/-- A levels part that differs is set, and an enabled feed's account learns of it (R85, R86). -/
theorem takeLevels_differs (h : stagedLevels s.mirror.staging f ≠ (s.fcfg f).levels) : s.takeLevels f =
    let t := s.setFcfg f ((s.fcfg f).withLevels (stagedLevels s.mirror.staging f))
    if (s.fcfg f).win = none then t else State.warnTest (t.setAcct f { s.acct f with blocked := none }) f := by
  have hwin : ((s.setFcfg f ((s.fcfg f).withLevels (stagedLevels s.mirror.staging f))).fcfg f).win = (s.fcfg f).win := by
    rw [fcfg_setFcfg_same]
    rfl
  simp only [State.takeLevels, if_neg h, hwin]
  rfl

theorem takeLevels_applied (h : stagedLevels s.mirror.staging f ≠ (s.fcfg f).levels) : (s.takeLevels f).applied =
    (s.setFcfg f ((s.fcfg f).withLevels (stagedLevels s.mirror.staging f))).applied := by
  simp only [takeLevels_differs h]
  split
  · rfl
  · exact warnTest_applied

theorem takeLevels_fcfg : (s.takeLevels f).fcfg f = (s.fcfg f).withLevels (stagedLevels s.mirror.staging f) := by
  by_cases h : stagedLevels s.mirror.staging f = (s.fcfg f).levels
  · rw [takeLevels_same h, h]
    rfl
  · rw [State.fcfg, takeLevels_applied h]
    exact fcfg_setFcfg_same s f _

theorem takeLevels_fcfg_ne {g : Feed} (hg : g ≠ f) : (s.takeLevels f).fcfg g = s.fcfg g := by
  by_cases h : stagedLevels s.mirror.staging f = (s.fcfg f).levels
  · rw [takeLevels_same h]
  · rw [State.fcfg, takeLevels_applied h]
    exact fcfg_setFcfg_ne s (Ne.symm hg) _

theorem takeLevels_blocked (h : stagedLevels s.mirror.staging f ≠ (s.fcfg f).levels) (hw : (s.fcfg f).win ≠ none) :
    ((s.takeLevels f).acct f).blocked = none := by
  simp only [takeLevels_differs h, if_neg hw]
  rw [warnTest_blocked, acct_setAcct_same]

theorem recompute_eq (p : PartMark) (b : Bool) :
    p.recompute b = if b = false then .clear else if p = .vacated then .vacated else .waiting := by
  cases b <;> cases p <;> rfl

theorem markParts_pendWin (f : Feed) : vget s.markParts.mirror.pendWin f =
    if stagedWin s.mirror.staging f = (s.fcfg f).win then .clear
    else if vget s.mirror.pendWin f = .vacated then .vacated else .waiting := by
  simp only [State.markParts, vget_ofFn, recompute_eq, bne_eq_false_iff_eq]

theorem markParts_pendRing : s.markParts.mirror.pendRing =
    if stagedRing s.mirror.staging = s.applied.ring then .clear
    else if s.mirror.pendRing = .vacated then .vacated else .waiting := by
  simp only [State.markParts, recompute_eq, bne_eq_false_iff_eq]

theorem markParts_pendCirc (n : Circ) :
    vget s.markParts.mirror.pendCirc n = true ↔ stagedCirc s.mirror.staging n ≠ s.ccfg n := by
  simp only [State.markParts, vget_ofFn, bne_iff_ne]

theorem mem_allCircs (n : Circ) : n ∈ allCircs := by revert n; decide

/-- The pending set is empty (R26). -/
theorem noneWaiting_iff : s.noneWaiting = true ↔ (∀ f, vget s.mirror.pendWin f = .clear) ∧ s.mirror.pendRing = .clear ∧
    ∀ n, vget s.mirror.pendCirc n = false := by
  simp only [State.noneWaiting, Bool.and_eq_true, List.all_eq_true, beq_iff_eq, Bool.not_eq_true', mem_allFeeds,
    mem_allCircs, forall_const]
  tauto

theorem applyCheck_open (h : s.mirror.applyPending = false ∨ ¬ s.noneWaiting = true) : s.applyCheck = s :=
  if_neg (by rcases h with h | h <;> simp [h])

/-- The apply completes: acknowledged and told (R26). -/
theorem applyCheck_done (hp : s.mirror.applyPending = true) (h : s.noneWaiting = true) : s.applyCheck =
    State.post { s with mirror := { (s.listAck s.mirror.genValid 2 0xFF).mirror with applyPending := false } }
      { kind := .applyDone, valA := s.mirror.genValid.setWidth 32, valB := s.mirror.genSeen.setWidth 16 } :=
  if_pos (by simp [hp, h])

/-- A report leaves every block but the Report Writer alone. -/
theorem told_sameBlocks {m : Mirror} {u : State} (h : Told { s with mirror := m } u) :
    (s.setWriter u.writer).SameBlocks u := by
  obtain ⟨w, l, b, rfl⟩ := h
  exact sameBlocks_update _ _ _

end
end Sys2Proof.Machine
end

section
namespace Sys2Proof.Machine

/-! ### What becomes of the stories while a circuit is turned off (R25, R72, R106) -/

section
variable {s u : State}

theorem stories_told (h : Told s u) : u.stories = s.stories := h.keeps State.stories fun _ _ _ => rfl

theorem stories_applyCheck : s.applyCheck.stories = s.stories := applyCheck_keeps State.stories fun _ _ _ _ => rfl

theorem stories_setRing (w : Option Win) : (s.setRing w).stories = s.stories :=
  (stories_told (setRing_told (s := s) w)).trans rfl

theorem stories_reexamine : s.reexamine.stories = s.stories := by
  refine reexamine_keeps (key := State.stories) (P := fun _ => True) (fun s f _ => ?_) (fun s _ => ?_) trivial
  · unfold State.retryWin
    split <;> rfl
  · unfold State.retryRing
    split
    · exact stories_setRing _
    · rfl

theorem stories_examineWin (f : Feed) : (s.examineWin f).stories = s.stories := by
  simp only [State.examineWin]
  (repeat' split)
  · rw [stories_applyCheck, stories_reexamine]
    rfl
  · rfl
  · rw [stories_applyCheck, stories_reexamine]
    rfl

theorem stories_feedBoundary (f : Feed) : (s.feedBoundary f).stories = s.stories := by
  unfold State.feedBoundary
  split
  · exact stories_examineWin f
  · rfl

theorem stories_warnTest (f : Feed) : (s.warnTest f).stories = s.stories := by
  obtain ⟨b, h⟩ := warnTest_told (s := s) (f := f)
  exact (stories_told h).trans rfl

theorem stories_recompute (f : Feed) : (s.recompute f).stories = s.stories := by
  have hset : (s.setAccount f).stories = s.stories := by
    unfold State.setAccount
    split <;> rfl
  simp only [State.recompute]
  split
  · exact hset
  · exact (stories_warnTest f).trans hset

theorem stories_unlink (f : Feed) (t : Tag) : (s.unlink f t).stories = s.stories := by
  simp only [State.unlink]
  split <;> rfl

theorem stories_retireHistory (st : Story) : (s.retireHistory st).stories = s.stories := by
  unfold State.retireHistory
  (repeat' split) <;> rfl

/-- A story that retires leaves its entry FREE, and touches no other (R72). -/
theorem stories_retire (t : Tag) (st : Story) : (s.retire t st).stories = vset s.stories t none := by
  simp only [State.retire]
  rw [stories_feedBoundary]
  refine congrArg (fun v => vset v t none) ((stories_told (post_told _)).trans ?_)
  rw [stories_recompute, stories_unlink]
  exact stories_retireHistory st

theorem story_retireTest (t v : Tag) : (s.retireTest t).story v = s.story v ∨ (s.retireTest t).story v = none := by
  unfold State.retireTest
  split
  · exact .inl rfl
  · rename_i st _
    split
    · rw [State.story, stories_retire, vget_vset]
      split
      · exact .inr rfl
      · exact .inl rfl
    · exact .inl rfl

/-- The story's delivery on circuit n, if there is one still, is ABANDONED (R106). -/
def State.Abandoned (n : Circ) (t : Tag) (s : State) : Prop :=
  ∀ st d, s.story t = some st → st.delivery n = some d → d.state = .abandoned

/-- What is ABANDONED on circuit n in s is so in u. -/
def KeepsAbandoned (n : Circ) (s u : State) : Prop := ∀ t, s.Abandoned n t → u.Abandoned n t

theorem keepsAbandoned_of_stories {n : Circ} (h : u.stories = s.stories) : KeepsAbandoned n s u := by
  intro t ht st d hs
  rw [State.story, h] at hs
  exact ht st d hs

theorem keepsAbandoned_retireTest (n : Circ) (t : Tag) : KeepsAbandoned n s (s.retireTest t) := by
  intro v hv st d hs
  rcases story_retireTest (s := s) t v with h | h
  · exact hv st d (h ▸ hs)
  · rw [h] at hs
    cases hs

theorem stories_abandonOnly {t : Tag} {n : Circ} {st : Story} {d : Delivery} (hs : s.story t = some st)
    (hd : st.delivery n = some d) : (s.abandonOnly t n).stories =
      vset s.stories t (some (st.setDelivery n { d with state := .abandoned })) := by
  simp only [State.abandonOnly, hs, hd]
  exact stories_told (post_told _)

/-- A delivery on circuit n leaves the circuit for good (R106). -/
theorem abandonOnly_abandoned (t : Tag) (n : Circ) : (s.abandonOnly t n).Abandoned n t := by
  intro st' d' hs' hd'
  cases hs : s.story t with
  | none => simp [State.abandonOnly, hs] at hs'
  | some st =>
    cases hd : st.delivery n with
    | none =>
      obtain rfl : st = st' := by simpa [State.abandonOnly, hs, hd] using hs'
      simp [hd] at hd'
    | some d =>
      rw [State.story, stories_abandonOnly hs hd, vget_vset_same, Option.some.injEq] at hs'
      rw [← hs', delivery_setDelivery, if_pos rfl, Option.some.injEq] at hd'
      rw [← hd']

theorem keepsAbandoned_abandonOnly (t : Tag) (n : Circ) : KeepsAbandoned n s (s.abandonOnly t n) := by
  intro v hv
  by_cases hvt : v = t
  · subst hvt
    exact abandonOnly_abandoned v n
  · have hsame : (s.abandonOnly t n).story v = s.story v := by
      unfold State.abandonOnly
      (repeat' split)
      · rfl
      · rfl
      · rw [State.story, stories_told (post_told _)]
        exact story_setStory_ne s (Ne.symm hvt) _
    intro st d hs
    exact hv st d (hsame ▸ hs)

theorem abandon_abandoned (t : Tag) (n : Circ) : (s.abandon t n).Abandoned n t :=
  keepsAbandoned_retireTest n t t (abandonOnly_abandoned t n)

theorem keepsAbandoned_abandon (t : Tag) (n : Circ) : KeepsAbandoned n s (s.abandon t n) := fun v hv =>
  keepsAbandoned_retireTest n t v (keepsAbandoned_abandonOnly t n v hv)

theorem stories_releaseRef (i : Slot32) : (s.releaseRef i).stories = s.stories := by
  unfold State.releaseRef
  split <;> rfl

theorem stories_leaveService (n : Circ) : (s.leaveService n).stories = s.stories := rfl

end

/-! ### Emptying a queue (R102, R106) -/

section
variable {s u : State} {n : Circ}

/-- u is s after work on circuit n: the other circuits, the applied circuit entries and the pending circuit parts stand. -/
structure OnCircuit (n : Circ) (s u : State) : Prop where
  parts : u.parts = s.parts
  others : ∀ m, m ≠ n → u.circ m = s.circ m

theorem OnCircuit.refl (n : Circ) (s : State) : OnCircuit n s s := ⟨rfl, fun _ _ => rfl⟩

theorem OnCircuit.trans {t : State} (h : OnCircuit n s t) (k : OnCircuit n t u) : OnCircuit n s u :=
  ⟨k.parts.trans h.parts, fun m hm => (k.others m hm).trans (h.others m hm)⟩

theorem onCircuit_of_yard (h : u.yard = s.yard) : OnCircuit n s u :=
  ⟨congrArg (fun y => (y.2.2.1, y.2.2.2)) h, fun m _ => yard_circ h m⟩

theorem onCircuit_setCirc (c : Circuit) : OnCircuit n s (s.setCirc n c) :=
  ⟨parts_setCirc s n c, fun m hm => by rw [circ_setCirc, if_neg (Ne.symm hm)]⟩

theorem onCircuit_releaseRef (i : Slot32) : OnCircuit n s (s.releaseRef i) := by
  unfold State.releaseRef
  split
  · exact .refl n s
  · exact ⟨parts_setNotice s _ _, fun _ _ => rfl⟩

theorem onCircuit_leaveService : OnCircuit n s (s.leaveService n) :=
  (onCircuit_setCirc _).trans ((onCircuit_setCirc _).trans (onCircuit_setCirc _))

theorem onCircuit_dropItem (i : Item) : OnCircuit n s (State.dropItem n s i) := by
  unfold State.dropItem
  split
  · exact (onCircuit_setCirc _).trans (onCircuit_of_yard (yard_abandon _ _ _))
  · exact (onCircuit_setCirc _).trans (onCircuit_releaseRef _)

theorem onCircuit_emptyQueue : OnCircuit n s (s.emptyQueue n) := by
  have h : ∀ (l : List Item) (s : State), OnCircuit n s (l.foldl (State.dropItem n) s) := by
    intro l
    induction l with
    | nil => exact OnCircuit.refl n
    | cons i is ih => exact fun s => (onCircuit_dropItem i).trans (ih _)
  exact h _ s

theorem releaseRef_circ (i : Slot32) (m : Circ) : (s.releaseRef i).circ m = s.circ m := by
  unfold State.releaseRef
  split <;> rfl

theorem dropItem_circ (i : Item) : (State.dropItem n s i).circ n =
    { s.circ n with sch := { (s.circ n).sch with queue := (s.circ n).sch.queue.filter (· != i) } } := by
  unfold State.dropItem
  split
  · rw [yard_circ (yard_abandon _ _ _)]
    exact circ_updSch_same s n _
  · rw [releaseRef_circ]
    exact circ_updSch_same s n _

theorem foldl_dropItem_circ (l : List Item) : (l.foldl (State.dropItem n) s).circ n = { s.circ n with
    sch := { (s.circ n).sch with queue := (s.circ n).sch.queue.filter fun i => decide (i ∉ l) } } := by
  induction l generalizing s with
  | nil => simp
  | cons i is ih =>
    rw [List.foldl_cons, ih, dropItem_circ, List.filter_filter]
    simp [bne, beq_eq_decide, Bool.and_comm]

/-- The queue is empty afterwards, and nothing else of the circuit moves (R102). -/
theorem emptyQueue_circ :
    (s.emptyQueue n).circ n = { s.circ n with sch := { (s.circ n).sch with queue := [] } } := by
  have hempty : ((s.circ n).sch.queue.filter fun i => decide (i ∉ (s.circ n).sch.queue)) = [] :=
    List.filter_eq_nil_iff.2 fun i hi => by simpa using hi
  rw [State.emptyQueue, foldl_dropItem_circ, hempty]

theorem keepsAbandoned_dropItem (i : Item) : KeepsAbandoned n s (State.dropItem n s i) := by
  unfold State.dropItem
  split
  · exact keepsAbandoned_abandon (s := s.dequeue n _) _ n
  · exact keepsAbandoned_of_stories (stories_releaseRef (s := s.dequeue n _) _)

theorem keepsAbandoned_foldl_dropItem (l : List Item) : KeepsAbandoned n s (l.foldl (State.dropItem n) s) := by
  induction l generalizing s with
  | nil => exact fun _ h => h
  | cons i is ih => exact fun t h => ih t (keepsAbandoned_dropItem i t h)

/-- Each story that leaves the queue is ABANDONED there (R106). -/
theorem emptyQueue_abandoned {t : Tag} (h : Item.story t ∈ (s.circ n).sch.queue) : (s.emptyQueue n).Abandoned n t := by
  have hfold : ∀ (l : List Item) (s : State), Item.story t ∈ l → (l.foldl (State.dropItem n) s).Abandoned n t := by
    intro l
    induction l with
    | nil => simp
    | cons i is ih =>
      intro s hi
      rcases List.mem_cons.1 hi with rfl | hi
      · exact keepsAbandoned_foldl_dropItem is t (abandon_abandoned t n)
      · exact ih _ hi
  exact hfold _ s h

end

/-! ### Circuit parts (R25) -/

section
variable {s u : State} {n : Circ} {new : CircCfg}

theorem onCircuit_dropService : OnCircuit n s (s.dropService n) := by
  unfold State.dropService
  split
  · exact .refl n s
  · exact (onCircuit_of_yard (yard_abandonOnly _ _ _)).trans
      (onCircuit_leaveService.trans (onCircuit_of_yard (yard_retireTest _ _)))
  · exact onCircuit_leaveService.trans (onCircuit_releaseRef _)

theorem leaveService_lu : ((s.leaveService n).circ n).lu = (s.circ n).lu := by
  simp [State.leaveService]

theorem leaveService_sch : ((s.leaveService n).circ n).sch =
    { (s.circ n).sch with item := none, stop := .none, stopMet := false } := by
  simp [State.leaveService]

/-- The in-service item leaves; the Line Unit and the queue stay (R106). -/
theorem dropService_circ : ((s.dropService n).circ n).lu = (s.circ n).lu ∧
    ((s.dropService n).circ n).sch.queue = (s.circ n).sch.queue ∧ ((s.dropService n).circ n).sch.item = none := by
  unfold State.dropService
  split
  · rename_i hi
    exact ⟨rfl, rfl, hi⟩
  · rw [yard_circ (yard_retireTest _ _), leaveService_lu, leaveService_sch, yard_circ (yard_abandonOnly _ _ _)]
    exact ⟨rfl, rfl, rfl⟩
  · rw [releaseRef_circ, leaveService_lu, leaveService_sch]
    exact ⟨rfl, rfl, rfl⟩

theorem keepsAbandoned_dropService : KeepsAbandoned n s (s.dropService n) := by
  unfold State.dropService
  split
  · exact fun _ h => h
  · exact fun v hv => keepsAbandoned_retireTest n _ v
      (keepsAbandoned_of_stories (s := s.abandonOnly _ n) (stories_leaveService n) v (keepsAbandoned_abandonOnly _ n v hv))
  · exact keepsAbandoned_of_stories ((stories_releaseRef _).trans (stories_leaveService n))

theorem dropService_abandoned {t : Tag} (h : (s.circ n).sch.item = some (.story t)) :
    (s.dropService n).Abandoned n t := by
  simp only [State.dropService, h]
  exact keepsAbandoned_retireTest n t t
    (keepsAbandoned_of_stories (s := s.abandonOnly t n) (stories_leaveService n) t (abandonOnly_abandoned t n))

theorem onCircuit_circOff : OnCircuit n s (s.circOff n) :=
  (onCircuit_setCirc _).trans (onCircuit_emptyQueue.trans (onCircuit_dropService.trans (onCircuit_setCirc _)))

theorem onCircuit_circOn : OnCircuit n s (s.circOn n) :=
  (onCircuit_setCirc _).trans ((onCircuit_setCirc _).trans (onCircuit_setCirc _))

theorem onCircuit_stopCore : OnCircuit n s (s.stopCore n) := (onCircuit_setCirc _).trans (onCircuit_setCirc _)

theorem onCircuit_circChange (old new : CircCfg) : OnCircuit n s (s.circChange n old new) := by
  have hruns : ∀ s : State, OnCircuit n s (if old.invert = new.invert then s
      else s.updLu n fun l => { l with spaceRun := 0, markRun := 0 }) := by
    intro s
    split
    · exact .refl n s
    · exact onCircuit_setCirc _
  unfold State.circChange
  extract_lets placed run
  have hrun : OnCircuit n s run := (onCircuit_setCirc _).trans (hruns placed)
  (repeat' split)
  · exact hrun
  · exact hrun.trans onCircuit_stopCore
  · exact hrun

/-- The circuit turned off: the Line Unit as turned off, nothing queued or in service (R25, R106). -/
theorem circOff_circ : ((s.circOff n).circ n).lu = (s.circ n).lu.turnedOff ∧ ((s.circOff n).circ n).sch.queue = [] ∧
    ((s.circOff n).circ n).sch.item = none ∧ ((s.circOff n).circ n).sch.point = .none ∧
    ((s.circOff n).circ n).sch.starve = 0 := by
  obtain ⟨hlu, hqueue, hitem⟩ := dropService_circ (s := (s.updLu n LineUnit.turnedOff).emptyQueue n) (n := n)
  rw [emptyQueue_circ, circ_updLu_same] at hlu hqueue
  have hc : (s.circOff n).circ n = _ :=
    circ_updSch_same (((s.updLu n LineUnit.turnedOff).emptyQueue n).dropService n) n _
  rw [hc]
  exact ⟨hlu, hqueue, hitem, rfl, rfl⟩

/-- The deliveries queued and in service on a circuit turned off are ABANDONED (R106). -/
theorem circOff_abandoned {t : Tag}
    (h : (s.circ n).sch.item = some (.story t) ∨ Item.story t ∈ (s.circ n).sch.queue) : (s.circOff n).Abandoned n t := by
  have hlu : ((s.updLu n LineUnit.turnedOff).circ n).sch = (s.circ n).sch := by rw [circ_updLu_same]
  show (((s.updLu n LineUnit.turnedOff).emptyQueue n).dropService n).Abandoned n t
  rcases h with h | h
  · refine dropService_abandoned ?_
    rw [emptyQueue_circ, hlu]
    exact h
  · exact keepsAbandoned_dropService t (emptyQueue_abandoned (by rw [hlu]; exact h))

/-- The circuit turned on: STOPPED, its Sender started afresh, its lookahead empty (R25, R109). -/
theorem circOn_circ : (s.circOn n).circ n = { s.circ n with
    lu := { LineUnit.start with state := .stopped, sense := (s.circ n).lu.sense }
    snd := Sender.start
    ftc := { (s.circ n).ftc with look := [], nextFetch := 0 } } := by
  simp [State.circOn]

/-- The state with circuit n's applied entry replaced, before the effects (R25). -/
def State.withCcfg (s : State) (n : Circ) (new : CircCfg) : State :=
  { s with applied := { s.applied with circs := vset s.applied.circs n new } }

theorem setCircCfg_eq (n : Circ) (new : CircCfg) : s.setCircCfg n new =
    if (s.ccfg n).enable then
      if new.enable then (s.withCcfg n new).circChange n (s.ccfg n) new else (s.withCcfg n new).circOff n
    else if new.enable then (s.withCcfg n new).circOn n else s.withCcfg n new := rfl

theorem onCircuit_setCircCfg (n : Circ) (new : CircCfg) : OnCircuit n (s.withCcfg n new) (s.setCircCfg n new) := by
  rw [setCircCfg_eq]
  (repeat' split)
  · exact onCircuit_circChange _ _
  · exact onCircuit_circOff
  · exact onCircuit_circOn
  · exact .refl n _

/-- The part taken, before its mark leaves the pending set (R22). -/
def State.takeCirc (s : State) (n : Circ) : State :=
  if stagedCirc s.mirror.staging n = s.ccfg n then s else s.setCircCfg n (stagedCirc s.mirror.staging n)

theorem examineCirc_eq (n : Circ) : s.examineCirc n = (((s.takeCirc n).setMarkCirc n false).reexamine).applyCheck := rfl

theorem withCcfg_self (n : Circ) : s.withCcfg n (s.ccfg n) = s := by
  simp [State.withCcfg, State.ccfg, vset, vget]

theorem onCircuit_takeCirc (n : Circ) :
    OnCircuit n (s.withCcfg n (stagedCirc s.mirror.staging n)) (s.takeCirc n) := by
  unfold State.takeCirc
  split
  · rename_i h
    rw [h, withCcfg_self]
    exact .refl n s
  · exact onCircuit_setCircCfg n _

theorem examineCirc_yard (n : Circ) : (s.examineCirc n).yard = ((s.takeCirc n).setMarkCirc n false).yard := by
  rw [examineCirc_eq, yard_applyCheck, yard_reexamine]

theorem examineCirc_circ (n m : Circ) : (s.examineCirc n).circ m = (s.takeCirc n).circ m :=
  yard_circ (examineCirc_yard n) m

theorem examineCirc_story (n : Circ) (t : Tag) : (s.examineCirc n).story t = (s.takeCirc n).story t := by
  rw [State.story, examineCirc_eq, stories_applyCheck, stories_reexamine]
  rfl

theorem examineCirc_ccfg (n m : Circ) :
    (s.examineCirc n).ccfg m = if n = m then stagedCirc s.mirror.staging n else s.ccfg m := by
  have hc : (s.examineCirc n).applied.circs = (s.takeCirc n).applied.circs :=
    congrArg (fun y => y.2.2.1) (examineCirc_yard n)
  have hp : (s.takeCirc n).applied.circs = vset s.applied.circs n (stagedCirc s.mirror.staging n) :=
    congrArg Prod.fst (onCircuit_takeCirc n).parts
  rw [State.ccfg, hc, hp, vget_vset]
  rfl

theorem examineCirc_pendCirc (n : Circ) : vget (s.examineCirc n).mirror.pendCirc n = false := by
  have h : (s.examineCirc n).mirror.pendCirc = ((s.takeCirc n).setMarkCirc n false).mirror.pendCirc :=
    congrArg (fun y => y.2.2.2) (examineCirc_yard n)
  rw [h]
  exact vget_vset_same _ n false

theorem takeCirc_same (h : stagedCirc s.mirror.staging n = s.ccfg n) : s.takeCirc n = s := if_pos h

theorem takeCirc_on (ho : (s.ccfg n).enable = false) (hn : (stagedCirc s.mirror.staging n).enable = true) :
    s.takeCirc n = (s.withCcfg n (stagedCirc s.mirror.staging n)).circOn n := by
  have hne : stagedCirc s.mirror.staging n ≠ s.ccfg n := fun h => by rw [h, ho] at hn; cases hn
  rw [State.takeCirc, if_neg hne, setCircCfg_eq, ho, hn]
  rfl

theorem takeCirc_off (ho : (s.ccfg n).enable = true) (hn : (stagedCirc s.mirror.staging n).enable = false) :
    s.takeCirc n = (s.withCcfg n (stagedCirc s.mirror.staging n)).circOff n := by
  have hne : stagedCirc s.mirror.staging n ≠ s.ccfg n := fun h => by rw [h, ho] at hn; cases hn
  rw [State.takeCirc, if_neg hne, setCircCfg_eq, ho, hn]
  rfl

/-- A circuit part not pending, or of a circuit that sends characters, stays as it is (R21, R22). -/
theorem tryCirc_idle (h : vget s.mirror.pendCirc n = false ∨ (s.circ n).lu.state.quiet = false) : s.tryCirc n = s :=
  if_neg (by rcases h with h | h <;> simp [h])

theorem tryCirc_examined (hp : vget s.mirror.pendCirc n = true) (hq : (s.circ n).lu.state.quiet = true) :
    s.tryCirc n = (s.partTaken n (s.examineCirc n)).sched n := if_pos (by simp [hp, hq])

theorem quiet_iff (c : CState) : c.quiet = true ↔ c = .off ∨ c = .stopped ∨ c = .held ∨ c = .fault := by
  cases c <;> decide

theorem quiet_false_iff (c : CState) : c.quiet = false ↔ c = .lead ∨ c = .running ∨ c = .broken := by
  cases c <;> decide

/-- The circuit record after a part that turns it on (R25). -/
theorem examineCirc_on (ho : (s.ccfg n).enable = false) (hn : (stagedCirc s.mirror.staging n).enable = true) :
    (s.examineCirc n).circ n = { s.circ n with
      lu := { LineUnit.start with state := .stopped, sense := (s.circ n).lu.sense }
      snd := Sender.start
      ftc := { (s.circ n).ftc with look := [], nextFetch := 0 } } := by
  rw [examineCirc_circ, takeCirc_on ho hn]
  exact circOn_circ

/-- The circuit record after a part that turns it off (R25, R106). -/
theorem examineCirc_off (ho : (s.ccfg n).enable = true) (hn : (stagedCirc s.mirror.staging n).enable = false) :
    ((s.examineCirc n).circ n).lu = (s.circ n).lu.turnedOff ∧ ((s.examineCirc n).circ n).sch.queue = [] ∧
    ((s.examineCirc n).circ n).sch.item = none ∧ ((s.examineCirc n).circ n).sch.point = .none ∧
    ((s.examineCirc n).circ n).sch.starve = 0 := by
  rw [examineCirc_circ, takeCirc_off ho hn]
  exact circOff_circ

theorem examineCirc_off_abandoned (ho : (s.ccfg n).enable = true) (hn : (stagedCirc s.mirror.staging n).enable = false)
    {t : Tag} (h : (s.circ n).sch.item = some (.story t) ∨ Item.story t ∈ (s.circ n).sch.queue) :
    (s.examineCirc n).Abandoned n t := by
  intro st d hs
  rw [examineCirc_story, takeCirc_off ho hn] at hs
  exact circOff_abandoned (s := s.withCcfg n (stagedCirc s.mirror.staging n)) h st d hs

theorem examineCirc_others {m : Circ} (hm : m ≠ n) :
    (s.examineCirc n).circ m = s.circ m ∧ (s.examineCirc n).ccfg m = s.ccfg m := by
  rw [examineCirc_circ, examineCirc_ccfg, if_neg (Ne.symm hm)]
  exact ⟨(onCircuit_takeCirc n).others m hm, rfl⟩

/-- Settles O21: the marks and the parts taken at once, then each kind of conditional part by the way it is examined, then
the completion and the refusal. -/
theorem applyPartsAreTaken : Obligations.ApplyPartsAreTaken := by
  refine ⟨fun s g => rfl, fun s => rfl, fun s => ⟨markParts_pendWin, markParts_pendRing, markParts_pendCirc, rfl, rfl,
    fun f => ⟨takeLevels_fcfg, fun g => takeLevels_fcfg_ne, takeLevels_same, takeLevels_blocked⟩⟩,
    fun s f => ⟨tryWin_idle, fun hp hc => ?_⟩, fun s => ⟨tryRing_idle, fun hp hc hr => ?_⟩,
    fun s n => ⟨fun h => ?_, fun hp hq => ?_, ?_, examineCirc_pendCirc n, fun m => examineCirc_others, fun hsame => ?_,
      fun ho hn => ?_, fun ho hn => ?_⟩,
    fun s => ⟨fun hp hwin hring hcirc => ?_, fun h => ?_⟩,
    fun s g e => ⟨applyRefused_mirror g e, applyRefused_writer g e, told_sameBlocks (applyRefused_told g e)⟩⟩
  · simp only [tryWin_examined hp hc]
    refine ⟨fun hw => ?_, examineWin_blocked, fun hw hb => ?_⟩
    · have hd := desk_examineWin_same hw
      exact ⟨congrArg Desk.cfg hd, congrArg Desk.ctx hd, congrArg Desk.acct hd, congrArg Desk.mark hd⟩
    · have hd := desk_examineWin_free hw hb
      refine ⟨congrArg Desk.cfg hd, congrArg Desk.ctx hd, congrArg Desk.acct hd, congrArg Desk.mark hd,
        fun hwin hring g hg => ?_⟩
      have ho := desk_examineWin_others hw hb hwin hring hg
      exact ⟨congrArg Desk.cfg ho, congrArg Desk.ctx ho⟩
  · simp only [tryRing_examined hp hc hr]
    refine ⟨fun hw => ?_, fun hw hb => ?_, fun hw hb => ?_⟩
    · have hd := ringPart_examineRing_same hw
      exact ⟨(congrArg Prod.fst hd).trans hw.symm, congrArg Prod.snd hd⟩
    · have hd := ringPart_examineRing_free hw hb
      exact ⟨congrArg Prod.fst hd, congrArg Prod.snd hd⟩
    · rw [examineRing_blocked hw hb]
      exact ⟨setRing_ring none, rfl, setRing_none_writer hr⟩
  · exact tryCirc_idle (h.imp_right (quiet_false_iff _).2)
  · exact tryCirc_examined hp ((quiet_iff _).2 hq)
  · exact (examineCirc_ccfg n n).trans (if_pos rfl)
  · exact (examineCirc_circ n n).trans (by rw [takeCirc_same hsame])
  · have hc := examineCirc_on ho hn
    exact ⟨congrArg Circuit.lu hc, congrArg Circuit.snd hc, (congrArg Circuit.sch hc).trans rfl,
      congrArg (fun c => c.ftc.look) hc⟩
  · obtain ⟨hlu, hqueue, hitem, hpoint, hstarve⟩ := examineCirc_off ho hn
    exact ⟨hlu, hqueue, hitem, hpoint, hstarve, fun t st d ht => examineCirc_off_abandoned ho hn ht st d⟩
  · rw [applyCheck_done hp (noneWaiting_iff.2 ⟨hwin, hring, hcirc⟩)]
    exact ⟨post_mirror (by simp), post_writer_congr (by rfl) (by rfl) _, told_sameBlocks (post_told _)⟩
  · refine applyCheck_open (h.imp_right fun h hnone => ?_)
    obtain ⟨hwin, hring, hcirc⟩ := noneWaiting_iff.1 hnone
    rcases h with ⟨f, hf⟩ | hr | ⟨n, hn⟩
    · exact hf (hwin f)
    · exact hr hring
    · rw [hcirc n] at hn
      cases hn

end
end Sys2Proof.Machine
end

section
namespace Sys2Proof.Machine

/-! ### The header grammar (R42, R43) -/

section
variable {ds rest : List Byte}

/-- The digit run of a text that begins with exactly these digits. -/
theorem digitRun_append (hd : ∀ d ∈ ds, isDigit d = true) (hr : ∀ b r, rest = b :: r → isDigit b = false) :
    digitRun (ds ++ rest) = (ds, rest) := by
  induction ds with
  | nil =>
    cases rest with
    | nil => rfl
    | cons b r => simp [digitRun, hr b r rfl]
  | cons d ds ih =>
    rw [List.forall_mem_cons] at hd
    simp [digitRun, hd.1, ih hd.2]

theorem numberOf_isNone (ds : List Byte) :
    (numberOf ds).isNone = !decide (1 ≤ ds.length ∧ ds.length ≤ 5 ∧ digitsValue ds ≤ 65535) := by
  unfold numberOf
  split
  · rename_i h
    simp [h]
  · rename_i h
    rw [decide_eq_false h]
    rfl

theorem slugOf_other {b : Byte} (h : b ≠ 0x20) (r : List Byte) : slugOf (b :: r) = ([], true) := if_neg h

/-- A tail that begins with neither a slash nor a space holds nothing, with a fault (R43). -/
theorem headerTail_other {b : Byte} (hspace : b ≠ 0x20) (hslash : b ≠ 0x2F) (r : List Byte) :
    headerTail (b :: r) = (none, [], true) := by
  rw [headerTail, if_neg hslash, slugOf_other hspace]

theorem classOf_valid {c : Byte} (h : 0x30 ≤ c.toNat ∧ c.toNat ≤ 0x34) :
    classOf c = some ⟨c.toNat - 0x30, by omega⟩ := dif_pos h

theorem classOf_invalid {c : Byte} (h : ¬(0x30 ≤ c.toNat ∧ c.toNat ≤ 0x34)) : classOf c = none := dif_neg h

/-- A header with a class byte, by its class byte, its digits and what follows them (R42). -/
theorem parseHeader_cons (c : Byte) (hd : ∀ d ∈ ds, isDigit d = true)
    (hr : ∀ b r, rest = b :: r → isDigit b = false) : parseHeader (c :: (ds ++ rest)) =
      { cls := (classOf c).getD 3, number := numberOf ds, replaced := (headerTail rest).1,
        slug := (headerTail rest).2.1,
        fault := (classOf c).isNone || (numberOf ds).isNone || (headerTail rest).2.2 } := by
  simp only [parseHeader, digitRun_append hd hr]

/-- The tail of a header with a replaced number (R43). -/
theorem headerTail_slash (hd : ∀ d ∈ ds, isDigit d = true) (hr : ∀ b r, rest = b :: r → isDigit b = false) :
    headerTail (0x2F :: (ds ++ rest)) =
      (numberOf ds, (slugOf rest).1, (numberOf ds).isNone || (slugOf rest).2) := by
  simp only [headerTail, digitRun_append hd hr, if_true]

/-- Settles O32. -/
theorem headerClassAndNumber : Obligations.HeaderClassAndNumber := by
  refine ⟨rfl, fun c ds rest hd hr => ?_⟩
  rw [parseHeader_cons c hd hr]
  refine ⟨?_, rfl, ?_⟩
  · by_cases hc : 0x30 ≤ c.toNat ∧ c.toNat ≤ 0x34
    · simp only [classOf_valid hc, if_pos hc]
      rfl
    · simp only [classOf_invalid hc, if_neg hc]
      rfl
  · have hcls : (classOf c).isNone = true ↔ ¬(0x30 ≤ c.toNat ∧ c.toNat ≤ 0x34) := by
      by_cases hc : 0x30 ≤ c.toNat ∧ c.toNat ≤ 0x34
      · simp [classOf_valid hc, hc]
      · simp [classOf_invalid hc, hc]
    simp only [Bool.or_eq_true, hcls, numberOf_isNone, Bool.not_eq_true', decide_eq_false_iff_not, or_assoc]

/-- Settles O33. -/
theorem headerReplacedAndSlug : Obligations.HeaderReplacedAndSlug := by
  refine ⟨fun c ds rest hd hr => ?_, rfl, fun slug => rfl, fun b r hspace hslash => headerTail_other hspace hslash r,
    fun ds rest hd hr => ?_⟩
  · rw [parseHeader_cons c hd hr]
    exact ⟨rfl, rfl⟩
  · rw [headerTail_slash hd hr, numberOf_isNone]
    cases rest with
    | nil => rfl
    | cons b r =>
      by_cases hb : b = 0x20
      · subst hb
        rfl
      · simp only [slugOf_other hb, if_neg hb, bne_iff_ne.2 hb]
        rfl

end
end Sys2Proof.Machine
end

section
namespace Sys2Proof.Machine

/-! ### A host write in a feed window (R36, R37) -/

section
variable {s : State} {x : Txn} {f : Feed} {off : Nat}

/-- With some lane enabled, the enabled lanes are an unbroken run from the lowest one just when they are the k lanes from
some lane on (R36). -/
theorem lowestLane_laneRun_iff : ∀ be : BitVec 4, be ≠ 0 → ∀ i, i < 4 →
    (lowestLane be = i ∧ laneRun (lanesOf be) = true ↔
      ∃ k, k ≤ 4 ∧ 0 < k ∧ i + k ≤ 4 ∧ ∀ j, j < 4 → (be.getLsbD j = true ↔ i ≤ j ∧ j < i + k)) := by
  decide

theorem lowestLane_lt : ∀ be : BitVec 4, lowestLane be < 4 := by decide

theorem isTaken_iff {be : BitVec 4} (h : be ≠ 0) : s.isTaken f off be = true ↔
    ∃ i k, 0 < k ∧ i + k ≤ 4 ∧ (s.ctx f).cursor = off + i ∧
      ∀ j, j < 4 → (be.getLsbD j = true ↔ i ≤ j ∧ j < i + k) := by
  simp only [State.isTaken, Bool.and_eq_true, beq_iff_eq]
  constructor
  · rintro ⟨hcursor, hrun⟩
    obtain ⟨k, -, hk, hle, hlanes⟩ := (lowestLane_laneRun_iff be h _ (lowestLane_lt be)).1 ⟨rfl, hrun⟩
    exact ⟨_, k, hk, hle, hcursor.symm, hlanes⟩
  · rintro ⟨i, k, hk, hle, hcursor, hlanes⟩
    obtain ⟨hlow, hrun⟩ := (lowestLane_laneRun_iff be h i (by omega)).2 ⟨k, by omega, hk, hle, hlanes⟩
    exact ⟨by rw [hlow, hcursor], hrun⟩

theorem handOver_feedWriteAt (h : s.FeedWriteAt x f off) : s.handOver x = .copy f off := by
  rw [handOver_write h.write h.lanes, h.cls]
  rfl

/-- HOST_FEED_WRITE of a write in flight hands it to the Copy Intake (R6, R36). -/
theorem exec_hostFeedWrite (h : s.FeedWriteAt x f off) :
    exec .hostFeedWrite s = .next ((s.landed x).feedWrite f off x.be x.data).settleBus := by
  have hover := handOver_feedWriteAt h
  have hnames : namesFeed s x = true := by simp only [namesFeed, hover]
  have hhand : (s.landed x).handOn x = (s.landed x).feedWrite f off x.be x.data := by
    simp only [State.handOn, handOver_landed, hover]
  show Host.Outcome.next (s.completeHost namesFeed) = _
  rw [completeHost_names h.port hnames, hhand]

/-- The context of a feed after one more stray write (R37). -/
def FeedCtx.strayed (c : FeedCtx) : FeedCtx := { c with stray := satInc 65535 c.stray, strayArmed := false }

/-- A stray write moves the feed's context and tells of it (R37). -/
theorem strayWrite_told (a : Nat) : Told (s.setCtx f (s.ctx f).strayed) (s.strayWrite f a) := by
  simp only [State.strayWrite]
  split
  · exact post_told _
  · exact .refl _

theorem strayWrite_silent (h : (s.ctx f).strayArmed = false) (a : Nat) :
    s.strayWrite f a = s.setCtx f (s.ctx f).strayed := by
  simp only [State.strayWrite, h]
  rfl

theorem strayWrite_armed (h : (s.ctx f).strayArmed = true) (a : Nat) : (s.strayWrite f a).writer = (s.post
    { kind := .strayWrite, feed := some f, valA := BitVec.ofNat 32 a,
      valB := BitVec.ofNat 16 (satInc 65535 (s.ctx f).stray) }).writer := by
  have hreport : (s.setCtx f (s.ctx f).strayed).strayReport f a =
      { kind := .strayWrite, feed := some f, valA := BitVec.ofNat 32 a,
        valB := BitVec.ofNat 16 (satInc 65535 (s.ctx f).stray) } := by
    simp only [State.strayReport, ctx_setCtx_same]
    rfl
  have hpost : s.strayWrite f a = (s.setCtx f (s.ctx f).strayed).post ((s.setCtx f (s.ctx f).strayed).strayReport f a) := by
    simp only [State.strayWrite, h]
    rfl
  rw [hpost, hreport]
  exact post_writer_congr (by rfl) (by rfl) _

/-- Settles O29. -/
theorem strayWriteIsCounted : Obligations.StrayWriteIsCounted := by
  refine ⟨fun s f off be h => isTaken_iff h, fun s x f off h hstray => ?_⟩
  have he : exec .hostFeedWrite s =
      .next ((s.landed x).strayWrite f (s.fbase f + off + lowestLane x.be)).settleBus := by
    have hs : (s.landed x).isTaken f off x.be = false := hstray
    rw [exec_hostFeedWrite h, State.feedWrite, hs]
    rfl
  have ht := strayWrite_told (s := s.landed x) (f := f) (s.fbase f + off + lowestLane x.be)
  refine ⟨_, he, ?_, ?_, fun g hg => ?_, ?_, ?_, ?_, ?_, fun ha => ?_, fun ha => ?_⟩
  · rw [settleBus_mem]
    exact ht.keeps State.mem fun _ _ _ => rfl
  · rw [State.ctx, settleBus_intake]
    exact (ht.keeps (State.ctx · f) fun _ _ _ => rfl).trans (ctx_setCtx_same _ f _)
  · rw [State.ctx, settleBus_intake]
    exact (ht.keeps (State.ctx · g) fun _ _ _ => rfl).trans (ctx_setCtx_ne _ (Ne.symm hg) _)
  · rw [settleBus_stories]
    exact ht.keeps State.stories fun _ _ _ => rfl
  · rw [settleBus_accounts]
    exact ht.keeps State.accounts fun _ _ _ => rfl
  · rw [settleBus_circuits]
    exact ht.keeps State.circuits fun _ _ _ => rfl
  · rw [settleBus_applied]
    exact ht.keeps State.applied fun _ _ _ => rfl
  · rw [settleBus_writer, strayWrite_silent (by exact ha)]
    rfl
  · rw [settleBus_writer, strayWrite_armed (by exact ha)]
    exact post_writer_congr (by rfl) (by rfl) _

end

/-! ### The context of a feed passing a byte (R38, R40) -/

section
variable {s : State} {f : Feed}

theorem setCtx_setCtx (f : Feed) (c d : FeedCtx) : (s.setCtx f c).setCtx f d = s.setCtx f d := by
  simp [State.setCtx, vset]

theorem setCtx_self (f : Feed) : s.setCtx f (s.ctx f) = s := by
  simp [State.setCtx, State.ctx, vset, vget]

/-- Feed f's context becomes c, its cursor past one more byte (R38, R39). -/
def State.passByte (s : State) (f : Feed) (c : FeedCtx) : State :=
  s.setCtx f { c with cursor := ((s.ctx f).cursor + 1) % s.fsize f }

theorem passByte_ctx (c : FeedCtx) :
    (s.passByte f c).ctx f = { c with cursor := ((s.ctx f).cursor + 1) % s.fsize f } := ctx_setCtx_same _ _ _

theorem advance_eq : s.advance f = s.passByte f (s.ctx f) := rfl

/-- A context set before the cursor moves, with the cursor still where it was. -/
theorem advance_setCtx {c : FeedCtx} (h : c.cursor = (s.ctx f).cursor) :
    (s.setCtx f c).advance f = s.passByte f c := by
  rw [advance_eq, State.passByte, ctx_setCtx_same, setCtx_setCtx, h]
  rfl

theorem setParse_advance (p : Parse) :
    (s.setParse f p).advance f = s.passByte f { s.ctx f with parse := p } := advance_setCtx rfl

theorem beginHeader_eq : s.beginHeader f =
    s.passByte f { s.ctx f with parse := .header (s.ctx f).cursor 0 [], strayArmed := true } := advance_setCtx rfl

theorem closeToBetween_eq : s.closeToBetween f =
    (s.passByte f { s.ctx f with parse := .between, looseArmed := true }).feedBoundary f :=
  congrArg (State.feedBoundary · f) (advance_setCtx rfl)

/-! ### A byte between stories (R40) -/

theorem parseByte_between (h : (s.ctx f).parse = .between) (b : Byte) : s.parseByte f b = s.parseBetween f b := by
  simp only [State.parseByte, h]

theorem parseBetween_open : s.parseBetween f 0x01 =
    s.passByte f { s.ctx f with parse := .header (s.ctx f).cursor 0 [], strayArmed := true } := beginHeader_eq

theorem parseBetween_kill : s.parseBetween f 0x18 =
    s.passByte f { s.ctx f with parse := .killnum .between 0 0 } := setParse_advance _

/-- The bytes that are loose copy between stories (R40). -/
def LooseCopy (b : Byte) : Prop := b = 0x02 ∨ b = 0x03 ∨ b = 0x04 ∨ b = 0x0A ∨ 0x20 ≤ b.toNat

theorem LooseCopy.ne_mark {b : Byte} (h : LooseCopy b) : b ≠ 0x01 ∧ b ≠ 0x18 := by
  constructor <;>
  · rintro rfl
    revert h
    unfold LooseCopy
    decide

theorem parseBetween_loose {b : Byte} (h : LooseCopy b) : s.parseBetween f b = (s.looseByte f).advance f := by
  obtain ⟨hopen, hkill⟩ := h.ne_mark
  rw [State.parseBetween, if_neg hopen, if_neg hkill]
  exact if_pos h

theorem parseBetween_other {b : Byte} (hopen : b ≠ 0x01) (hkill : b ≠ 0x18) (hloose : ¬ LooseCopy b) :
    s.parseBetween f b = s.passByte f (s.ctx f) := by
  rw [State.parseBetween, if_neg hopen, if_neg hkill]
  exact if_neg hloose

theorem looseByte_armed (h : (s.ctx f).looseArmed = true) : s.looseByte f =
    State.post (s.setCtx f { s.ctx f with looseArmed := false }) (looseReport f (s.ctx f).cursor 0) := if_pos h

theorem looseByte_silent (h : (s.ctx f).looseArmed = false) : s.looseByte f = s := if_neg (by simp [h])

/-- Loose copy leaves the loose report disarmed and tells of the first byte (R40). -/
theorem looseByte_told : Told (s.setCtx f { s.ctx f with looseArmed := false }) (s.looseByte f) := by
  cases h : (s.ctx f).looseArmed with
  | true =>
    rw [looseByte_armed h]
    exact post_told _
  | false =>
    have hself : s.setCtx f { s.ctx f with looseArmed := false } = s := by
      rw [← h]
      exact setCtx_self f
    rw [looseByte_silent h, hself]
    exact .refl s

theorem looseByte_ctx : (s.looseByte f).ctx f = { s.ctx f with looseArmed := false } :=
  (looseByte_told.keeps (State.ctx · f) fun _ _ _ => rfl).trans (ctx_setCtx_same _ _ _)

theorem looseByte_fsize : (s.looseByte f).fsize f = s.fsize f :=
  (looseByte_told.keeps (State.fsize · f) fun _ _ _ => rfl).trans rfl

theorem parseBetween_stories (b : Byte) : (s.parseBetween f b).stories = s.stories := by
  unfold State.parseBetween
  (repeat' split)
  · rfl
  · rfl
  · exact (stories_told looseByte_told :)
  · rfl

/-- Settles O31, byte by byte of R40's table. -/
theorem bytesBetweenStories : Obligations.BytesBetweenStories := by
  intro s f b hp
  rw [parseByte_between hp]
  refine ⟨parseBetween_stories b, ?_, ?_, fun hb => ⟨?_, fun ha => ?_, fun ha => ?_⟩, ?_, fun hctl h1 h2 h3 h4 hA h18 => ?_⟩
  · rintro rfl
    rw [parseBetween_open, passByte_ctx]
  · rintro rfl
    rw [parseBetween_kill, passByte_ctx]
  · rw [parseBetween_loose hb, advance_eq, passByte_ctx, looseByte_ctx, looseByte_fsize]
  · rw [parseBetween_loose hb]
    show (s.looseByte f).writer = _
    rw [looseByte_armed ha]
    exact post_writer_congr (by rfl) (by rfl) _
  · rw [parseBetween_loose hb]
    show (s.looseByte f).writer = _
    rw [looseByte_silent ha]
  · rintro (rfl | rfl)
    · rw [parseBetween_open]
      rfl
    · rw [parseBetween_kill]
      rfl
  · have hloose : ¬ LooseCopy b := by
      rintro (h | h | h | h | h)
      · exact h2 h
      · exact h3 h
      · exact h4 h
      · exact hA h
      · omega
    rw [parseBetween_other h1 h18 hloose]
    exact ⟨rfl, passByte_ctx _⟩

end
end Sys2Proof.Machine
end

section
namespace Sys2Proof.Machine

/-! ### Operations run over the circuits -/

section
variable {s u : State}

/-- What the key reads of circuit n after an operation is run over distinct circuits, when each run changes it on its own
circuit alone. -/
theorem foldl_circs_at {β : Type} {op : State → Circ → State} {key : State → β} {F : β → β} {n : Circ}
    (hsame : ∀ s, key (op s n) = F (key s)) (hother : ∀ s m, m ≠ n → key (op s m) = key s) {l : List Circ}
    (hl : l.Nodup) : key (l.foldl op s) = if n ∈ l then F (key s) else key s := by
  induction l generalizing s with
  | nil => rfl
  | cons m l ih =>
    obtain ⟨hm, hl⟩ := List.nodup_cons.1 hl
    rw [List.foldl_cons, ih hl]
    by_cases hmn : m = n
    · subst hmn
      simp [hm, hsame]
    · simp [hother s m hmn, Ne.symm hmn]

theorem allCircs_nodup : allCircs.Nodup := by decide

theorem setCirc_self (n : Circ) : s.setCirc n (s.circ n) = s := by
  simp [State.setCirc, State.circ, vset, vget]

theorem setStory_self {t : Tag} {x : Option Story} (h : s.story t = x) : s.setStory t x = s := by
  subst h
  simp [State.setStory, State.story, vset, vget]

@[simp] theorem setCirc_story (n : Circ) (c : Circuit) (t : Tag) : (s.setCirc n c).story t = s.story t := rfl
@[simp] theorem setStory_circ (t : Tag) (x : Option Story) (n : Circ) : (s.setStory t x).circ n = s.circ n := rfl

theorem setDelivery_self {st : Story} {n : Circ} {d : Delivery} (h : st.delivery n = some d) :
    st.setDelivery n d = st := by
  have hv : vset st.deliveries n (some d) = st.deliveries := by
    rw [← h]
    simp [Story.delivery, vset, vget]
  rw [Story.setDelivery, hv]

end

/-! ### The record of a killed story (R50, R66, R68) -/

section
variable {s : State} {src : KillSource} {t : Tag} {st : Story}

theorem setAccount_eq (f : Feed) : s.setAccount f = { s with accounts := (s.setAccount f).accounts } := by
  unfold State.setAccount
  split <;> rfl

theorem unlink_eq (f : Feed) (t : Tag) : s.unlink f t =
    { s.setFlist f ((s.flist f).filter (· != t)) with accounts := (s.unlink f t).accounts } := by
  simp only [State.unlink]
  split <;> rfl

theorem cutUnlink_eq : s.cutUnlink t st = { s.setFlist st.feed ((s.flist st.feed).filter (· != t)) with
    accounts := (s.cutUnlink t st).accounts } := by
  rw [State.cutUnlink, setAccount_eq, unlink_eq]

theorem killMark_overrun : s.killMark .overrun t st =
    { (s.setStory t (some { st with state := .cut, dry := 0 })).setFlist st.feed
        ((s.flist st.feed).filter (· != t)) with accounts := (s.killMark .overrun t st).accounts } := cutUnlink_eq

theorem killMark_open (hsrc : src ≠ .overrun) (ho : st.state = .open_) : s.killMark src t st =
    (s.setStory t (some { st with
      state := .killed, kwo := true, textEnd := (s.ctx st.feed).cursor, dry := 0 })).setCtx st.feed
        { s.ctx st.feed with parse := (s.ctx st.feed).parse.killed t } := by
  simp only [State.killMark, State.killedRecord, if_neg hsrc, if_pos ho]
  rfl

theorem killMark_closed (hsrc : src ≠ .overrun) (hc : st.state = .closed) :
    s.killMark src t st = s.setStory t (some { st with state := .killed, dry := 0 }) := by
  simp [State.killMark, State.killedRecord, hsrc, hc]

/-- Whatever the source, the mark of a kill reaches the record, the intake, the feed lists and the accounts. -/
theorem killMark_frame : ∃ i l a, s.killMark src t st =
    { s.setStory t (some (s.killedRecord src st)) with intake := i, feedLists := l, accounts := a } := by
  simp only [State.killMark]
  (repeat' split)
  · rw [cutUnlink_eq]
    exact ⟨_, _, _, rfl⟩
  · exact ⟨_, _, _, rfl⟩
  · exact ⟨_, _, _, rfl⟩

/-- What reads none of those is as the record alone leaves it. -/
theorem killMark_keeps {α : Type} (f : State → α)
    (hf : ∀ (u : State) i l a, f { u with intake := i, feedLists := l, accounts := a } = f u) :
    f (s.killMark src t st) = f (s.setStory t (some (s.killedRecord src st))) := by
  obtain ⟨i, l, a, h⟩ := killMark_frame (s := s) (src := src) (t := t) (st := st)
  rw [h, hf]

theorem killedRecord_deliveries : (s.killedRecord src st).deliveries = st.deliveries := by
  unfold State.killedRecord
  (repeat' split) <;> rfl

end

/-! ### The deliveries of a killed story (R67, R103) -/

section
variable {s : State} {t : Tag} {k : NoticeKind} {n : Circ}

/-- A delivery after the kill of its story (R67). -/
def Delivery.settled (d : Delivery) : Delivery :=
  match d.state with
  | .waiting | .preempted => { d with state := .abandoned }
  | .inService | .done | .abandoned => d

/-- The circuit of such a delivery: the story out of its queue, or a kill stop and a fetch in flight marked to be discarded
(R67, R103, R145). -/
def Circuit.settled (t : Tag) (k : NoticeKind) (d : Delivery) (c : Circuit) : Circuit :=
  match d.state with
  | .waiting | .preempted => { c with sch := { c.sch with queue := c.sch.queue.filter (· != Item.story t) } }
  | .inService => { c with sch := giveKill k c.sch, ftc := c.ftc.discard .dropBack }
  | .done | .abandoned => c

theorem settleDelivery_none (h : (s.story t).bind (·.delivery n) = none) : State.settleDelivery t k s n = s := by
  unfold State.settleDelivery
  split
  · rfl
  · rename_i st hs
    have hd : st.delivery n = none := by simpa [hs] using h
    simp only [hd]

/-- One delivery is settled: its record, its circuit, and at most a report (R67). -/
theorem settleDelivery_told {st : Story} {d : Delivery} (hs : s.story t = some st) (hd : st.delivery n = some d) :
    Told ((s.setStory t (some (st.setDelivery n d.settled))).setCirc n ((s.circ n).settled t k d))
      (State.settleDelivery t k s n) := by
  have hqueue : Told
      ((s.setStory t (some (st.setDelivery n { d with state := .abandoned }))).setCirc n { s.circ n with
        sch := { (s.circ n).sch with queue := (s.circ n).sch.queue.filter (· != Item.story t) } })
      ((s.dequeue n (.story t)).abandonOnly t n) := by
    have hs' : (s.dequeue n (.story t)).story t = some st := hs
    simp only [State.abandonOnly, hs', hd]
    exact post_told _
  have hstay : s.setStory t (some (st.setDelivery n d)) = s := by rw [setDelivery_self hd, setStory_self hs]
  simp only [State.settleDelivery, hs, hd, Delivery.settled, Circuit.settled]
  cases d.state with
  | waiting => exact hqueue
  | preempted => exact hqueue
  | inService =>
    simp only [hstay, State.updFtc, State.updSch, circ_setCirc_same, setCirc_setCirc]
    exact .refl _
  | done =>
    simp only [hstay, setCirc_self]
    exact .refl s
  | abandoned =>
    simp only [hstay, setCirc_self]
    exact .refl s

/-- The delivery of story t on circuit n, and the circuit: all that the settling of that delivery reads and writes. -/
def State.servicePair (t : Tag) (n : Circ) (s : State) : Option Delivery × Circuit :=
  ((s.story t).bind (·.delivery n), s.circ n)

/-- The pair after the kill of the story. -/
def settledPair (t : Tag) (k : NoticeKind) (p : Option Delivery × Circuit) : Option Delivery × Circuit :=
  match p.1 with
  | none => p
  | some d => (some d.settled, p.2.settled t k d)

/-- A settled delivery is either no delivery at all, which changes nothing, or one that settleDelivery_told speaks of. -/
theorem settleDelivery_cases (s : State) (t : Tag) (k : NoticeKind) (n : Circ) :
    ((s.story t).bind (·.delivery n) = none ∧ State.settleDelivery t k s n = s) ∨
    ∃ st d, s.story t = some st ∧ st.delivery n = some d ∧
      Told ((s.setStory t (some (st.setDelivery n d.settled))).setCirc n ((s.circ n).settled t k d))
        (State.settleDelivery t k s n) := by
  cases h : (s.story t).bind (·.delivery n) with
  | none => exact .inl ⟨rfl, settleDelivery_none h⟩
  | some d =>
    obtain ⟨st, hs, hd⟩ := Option.bind_eq_some_iff.1 h
    exact .inr ⟨st, d, hs, hd, settleDelivery_told hs hd⟩

theorem settleDelivery_same : (State.settleDelivery t k s n).servicePair t n = settledPair t k (s.servicePair t n) := by
  rcases settleDelivery_cases s t k n with ⟨hnone, h⟩ | ⟨st, d, hs, hd, h⟩
  · rw [h]
    simp only [State.servicePair, settledPair, hnone]
  · refine (h.keeps (State.servicePair t n) fun _ _ _ => rfl).trans ?_
    simp [State.servicePair, settledPair, hs, hd, delivery_setDelivery]

theorem settleDelivery_other {m : Circ} (hm : m ≠ n) :
    (State.settleDelivery t k s m).servicePair t n = s.servicePair t n := by
  rcases settleDelivery_cases s t k m with ⟨-, h⟩ | ⟨st, d, hs, hd, h⟩
  · rw [h]
  · refine (h.keeps (State.servicePair t n) fun _ _ _ => rfl).trans ?_
    simp [State.servicePair, hs, delivery_setDelivery, circ_setCirc, hm]

/-- u is s after work on story t that leaves the other stories, the admission list, the number index, the kill history and
the notices alone, and the story live. -/
structure StoryOnly (t : Tag) (s u : State) : Prop where
  others : ∀ v, v ≠ t → u.story v = s.story v
  live : (s.story t).isSome = true → (u.story t).isSome = true
  admission : u.admission = s.admission
  index : u.index = s.index
  history : u.history = s.history
  pool : u.pool = s.pool

theorem StoryOnly.refl (t : Tag) (s : State) : StoryOnly t s s := ⟨fun _ _ => rfl, id, rfl, rfl, rfl, rfl⟩

theorem StoryOnly.trans {u v : State} (h : StoryOnly t s u) (k : StoryOnly t u v) : StoryOnly t s v :=
  ⟨fun w hw => (k.others w hw).trans (h.others w hw), k.live ∘ h.live, k.admission.trans h.admission,
    k.index.trans h.index, k.history.trans h.history, k.pool.trans h.pool⟩

theorem StoryOnly.of_told {u : State} (h : Told s u) : StoryOnly t s u := by
  obtain ⟨w, l, b, rfl⟩ := h
  exact ⟨fun _ _ => rfl, id, rfl, rfl, rfl, rfl⟩

theorem setStory_storyOnly (st : Story) : StoryOnly t s (s.setStory t (some st)) :=
  ⟨fun _ hv => story_setStory_ne s (Ne.symm hv) _, fun _ => by rw [story_setStory_same]; rfl, rfl, rfl, rfl, rfl⟩

theorem settleDelivery_storyOnly : StoryOnly t s (State.settleDelivery t k s n) := by
  rcases settleDelivery_cases s t k n with ⟨-, h⟩ | ⟨st, d, -, -, h⟩
  · rw [h]
    exact .refl t s
  · have hset : StoryOnly t s ((s.setStory t (some (st.setDelivery n d.settled))).setCirc n
        ((s.circ n).settled t k d)) := (setStory_storyOnly _).trans ⟨fun _ _ => rfl, id, rfl, rfl, rfl, rfl⟩
    exact hset.trans (.of_told h)

/-- After a kill every delivery of the story, and its circuit, is settled (R67). -/
theorem killDeliveries_pair (src : KillSource) (n : Circ) :
    (s.killDeliveries src t).servicePair t n = settledPair t src.kind (s.servicePair t n) := by
  have h := foldl_circs_at (s := s) (key := State.servicePair t n) (F := settledPair t src.kind)
    (op := State.settleDelivery t src.kind) (fun _ => settleDelivery_same) (fun _ _ => settleDelivery_other) allCircs_nodup
  rwa [if_pos (mem_allCircs n)] at h

theorem killDeliveries_storyOnly (src : KillSource) : StoryOnly t s (s.killDeliveries src t) := by
  have hfold : ∀ (l : List Circ) (s : State), StoryOnly t s (l.foldl (State.settleDelivery t src.kind) s) := by
    intro l
    induction l with
    | nil => exact StoryOnly.refl t
    | cons n l ih => exact fun s => settleDelivery_storyOnly.trans (ih _)
  exact hfold allCircs s

end

/-! ### The kill of a live story (R64, R66 to R68) -/

section
variable {s : State} {src : KillSource} {t : Tag} {st : Story}

/-- The stages of a kill in their order (R66 to R68, R103). -/
theorem killLive_live (hs : s.story t = some st) (hl : st.state = .open_ ∨ st.state = .closed) :
    s.killLive src t = s.killFresh src t st := by
  rcases hl with h | h <;> simp only [State.killLive, hs, h]

theorem noticed_iff (n : Circ) : s.noticed st n = true ↔ ∃ d, st.delivery n = some d ∧
    (d.state = .preempted ∨ d.state = .done ∨ d.state = .abandoned) ∧ CircSet.has st.sent n = true ∧
    (s.circ n).lu.state ≠ .off := by
  unfold State.noticed
  cases st.delivery n with
  | none => simp
  | some d => simp [State.circUp, and_assoc, or_assoc]

theorem killReport_fields (m : Nat) : (killReport src t st m).tag = some t ∧
    (killReport src t st m).feed = some st.feed ∧ (killReport src t st m).cls = some st.cls ∧
    (killReport src t st m).number = st.number ∧ (killReport src t st m).valB = BitVec.ofNat 16 m := by
  cases src <;> exact ⟨rfl, rfl, rfl, rfl, rfl⟩

theorem killReport_kind (m : Nat) : (killReport src t st m).kind = match src with
    | .directive | .request | .supersede => .killDone
    | .ring | .victim => .spiked
    | .overrun => .overrunCut := by
  cases src <;> rfl

theorem stopWaited_running {n : Circ} (hserve : s.serving t n = true) (hopen : s.stopOpen n = true)
    (hrun : (s.circ n).lu.state = .running) : State.stopWaited t s n = s.stopHere n := by
  simp [State.stopWaited, hserve, hopen, hrun]

theorem killMark_storyOnly : StoryOnly t s (s.killMark src t st) := by
  obtain ⟨i, l, a, h⟩ := killMark_frame (s := s) (src := src) (t := t) (st := st)
  rw [h]
  exact (setStory_storyOnly (s.killedRecord src st)).trans ⟨fun _ _ => rfl, id, rfl, rfl, rfl, rfl⟩

theorem killMark_servicePair (n : Circ) : (s.killMark src t st).servicePair t n = (st.delivery n, s.circ n) := by
  refine (killMark_keeps (State.servicePair t n) fun _ _ _ _ => rfl).trans ?_
  have hd : (s.killedRecord src st).delivery n = st.delivery n := by
    rw [Story.delivery, killedRecord_deliveries, Story.delivery]
  simp only [State.servicePair, story_setStory_same, Option.bind_some, hd]
  rfl

/-- Each delivery of the killed story, and its circuit, as the kill leaves them (R67, R103). -/
theorem killed_servicePair (n : Circ) : ((s.killMark src t st).killDeliveries src t).servicePair t n =
    settledPair t src.kind (st.delivery n, s.circ n) := by
  rw [killDeliveries_pair, killMark_servicePair]

theorem killed_storyOnly : StoryOnly t s ((s.killMark src t st).killDeliveries src t) :=
  killMark_storyOnly.trans (killDeliveries_storyOnly src)

theorem killed_record (hs : s.story t = some st) :
    ∃ st', ((s.killMark src t st).killDeliveries src t).story t = some st' ∧
      ∀ n, st'.delivery n = (st.delivery n).map Delivery.settled := by
  obtain ⟨st', hst'⟩ := Option.isSome_iff_exists.1 (killed_storyOnly (src := src) (st := st).live (by rw [hs]; rfl))
  refine ⟨st', hst', fun n => ?_⟩
  have h := congrArg Prod.fst (killed_servicePair (s := s) (src := src) (t := t) (st := st) n)
  simp only [State.servicePair, hst', Option.bind_some] at h
  rw [h]
  cases st.delivery n <;> rfl

theorem killed_circ (n : Circ) : ((s.killMark src t st).killDeliveries src t).circ n =
    match st.delivery n with
    | none => s.circ n
    | some d => (s.circ n).settled t src.kind d := by
  have h := congrArg Prod.snd (killed_servicePair (s := s) (src := src) (t := t) (st := st) n)
  simp only [State.servicePair] at h
  rw [h]
  cases st.delivery n <;> rfl

/-- Settles O36: the order of the stages is that of State.killFresh; then the record by the source, the deliveries one
circuit at a time, the notices and the report. -/
theorem liveStoryIsKilled : Obligations.LiveStoryIsKilled := by
  intro s src t st hs hl k e r
  have honly : StoryOnly t s e := killed_storyOnly
  refine ⟨by rw [killLive_live hs hl]; rfl, fun hsrc ho => ?_, fun hsrc hc => ?_, fun hsrc => ?_, fun hsrc => ?_, honly.others,
    killMark_keeps State.circuits fun _ _ _ _ => rfl, killMark_keeps State.writer fun _ _ _ _ => rfl, honly.admission,
    honly.index, honly.history, honly.pool, fun n hd => ?_, fun n d hd => ?_, noticed_iff, fun m => ?_,
    fun v n => stopWaited_running⟩
  · have hk : k = _ := killMark_open hsrc ho
    rw [hk]
    refine ⟨story_setStory_same s t _, fun hp => ?_, fun a b hp => ?_⟩
    · rw [ctx_setCtx_same, hp]
      exact if_pos rfl
    · rw [ctx_setCtx_same, hp]
      exact if_pos rfl
  · have hk : k = _ := killMark_closed hsrc hc
    rw [hk]
    exact ⟨story_setStory_same s t _, rfl⟩
  · subst hsrc
    have hk : k = _ := killMark_overrun
    rw [hk]
    exact ⟨story_setStory_same s t _, rfl, flist_setFlist_same _ _ _, fun f hf => vget_vset_ne _ _ (Ne.symm hf)⟩
  · rcases hl with ho | hc
    · have hk : k = _ := killMark_open hsrc ho
      rw [hk]
      exact ⟨rfl, rfl⟩
    · have hk : k = _ := killMark_closed hsrc hc
      rw [hk]
      exact ⟨rfl, rfl⟩
  · exact (killed_circ n).trans (by rw [hd])
  · obtain ⟨st', hst', hdel⟩ := killed_record (src := src) hs
    have hcirc : e.circ n = (s.circ n).settled t src.kind d := (killed_circ n).trans (by rw [hd])
    refine ⟨st', hst', ?_⟩
    rw [hdel n, hd, hcirc]
    refine ⟨fun hq => ?_, fun hserve => ?_, fun hpast => ?_⟩
    · rcases hq with h | h <;> simp only [Option.map_some, Delivery.settled, Circuit.settled, h, and_self]
    · simp only [Option.map_some, Delivery.settled, Circuit.settled, hserve, giveKill, and_self]
    · rcases hpast with h | h <;> simp only [Option.map_some, Delivery.settled, Circuit.settled, h, and_self]
  · obtain ⟨htag, hfeed, hcls, hnumber, hcount⟩ := killReport_fields (src := src) (t := t) (st := st) m
    refine ⟨htag, hfeed, hcls, hnumber, hcount, ?_⟩
    rw [killReport_kind]
    cases src <;> decide

end
end Sys2Proof.Machine
end

section
namespace Sys2Proof.Machine

/-! ### The steps of a taken write (R38, R79, R83) -/

section
variable {s : State} {f : Feed} {t : Tag} {st : Story}

/-- HOST_FEED_WRITE of a taken write: the four steps on its enabled bytes (R38). -/
theorem exec_hostFeedWrite_taken {x : Txn} {off : Nat} (h : s.FeedWriteAt x f off) (ht : s.isTaken f off x.be = true) :
    exec .hostFeedWrite s = .next ((s.landed x).takeWrite f (enabledBytes x.be x.data)).settleBus := by
  have ht' : (s.landed x).isTaken f off x.be = true := ht
  rw [exec_hostFeedWrite h, State.feedWrite, if_pos ht']

theorem overrunTest_fits {n : Nat} (h : (s.acct f).occ + n ≤ s.fsize f) : s.overrunTest f n = s :=
  if_neg (Nat.not_lt.2 h)

theorem cutLoop_fits {n : Nat} (k : Nat) (h : (s.acct f).occ + n ≤ s.fsize f) : State.cutLoop f n k s = s := by
  cases k with
  | zero => rfl
  | succ k => exact if_neg (Nat.not_lt.2 h)

/-- A turn of the overrun cuts the head story (R83). -/
theorem cutLoop_head {n : Nat} (k : Nat) {l : List Tag} (h : s.fsize f < (s.acct f).occ + n) (hl : s.flist f = t :: l) :
    State.cutLoop f n (k + 1) s = State.cutLoop f n k ((s.killLive .overrun t).intakeCut f t) := by
  simp only [State.cutLoop, if_pos h, hl]

theorem parseBytes_closed (bs : List Byte) (h : (s.fcfg f).win = none) : State.parseBytes f bs s = s := by
  cases bs with
  | nil => rfl
  | cons b bs => exact if_pos h

theorem updStory_live (hs : s.story t = some st) (g : Story → Story) :
    s.updStory t g = s.setStory t (some (g st)) := by
  simp only [State.updStory, hs]

theorem clearDry_live (hs : s.story t = some st) : s.clearDry t = if st.dry = 0 then s
    else (allCircs.filter fun n => CircSet.has st.dry n).foldl State.sched
      (s.setStory t (some { st with dry := 0 })) := by
  simp only [State.clearDry, hs]

theorem growthStep_none (h : (s.ctx f).parse.growing = none) : s.growthStep f = s := by
  simp only [State.growthStep, h]

/-- The growth event moves the text end to the cursor, and what waited for copy goes on (R38, R61). -/
theorem growthStep_growing (h : (s.ctx f).parse.growing = some t) (hs : s.story t = some st) : s.growthStep f =
    if st.textEnd = (s.ctx f).cursor then s
    else (State.clearDry (s.setStory t (some { st with textEnd := (s.ctx f).cursor })) t).settleServing t := by
  simp only [State.growthStep, h, hs, State.growth, updStory_live hs]

/-! ### The spike test (R81, R82) -/

theorem overSpike_iff : s.overSpike f = true ↔ ∃ l, s.spikeLevel f = some l ∧ l < (s.acct f).occ := by
  unfold State.overSpike
  cases s.spikeLevel f with
  | none => simp
  | some l => simp

theorem spikeTest_below (h : ∀ l, s.spikeLevel f = some l → (s.acct f).occ ≤ l) (k : Nat) :
    State.spikeTest k s f = s := by
  have hover : ¬ s.overSpike f = true := by
    rw [overSpike_iff]
    rintro ⟨l, hl, hlt⟩
    exact absurd (h l hl) (Nat.not_le.2 hlt)
  cases k with
  | zero => rfl
  | succ k => exact if_neg hover

/-- Above the spike level the head story is looked at (R81). -/
theorem spikeTest_head (k : Nat) {l : List Tag} (ho : s.overSpike f = true) (hl : s.flist f = t :: l)
    (hs : s.story t = some st) :
    State.spikeTest (k + 1) s f =
      if st.state = .open_ ∨ st.state = .closed then
        if 3 ≤ st.cls.1 then
          if (s.killLive .ring t).story t = none then State.spikeTest k (s.killLive .ring t) f else s.killLive .ring t
        else s.feedBlocked f t st
      else s := by
  simp only [State.spikeTest, if_pos ho, hl, hs, Option.isNone_iff_eq_none]

/-- FEED_BLOCKED names the head story once (R82). -/
theorem feedBlocked_eq : s.feedBlocked f t st =
    if (s.acct f).blocked = some t then s
    else (s.setAcct f { s.acct f with blocked := some t }).post
      { kind := .feedBlocked, feed := some f, tag := some t, cls := some st.cls, number := st.number,
        valA := BitVec.ofNat 32 (s.acct f).occ, valB := BitVec.ofNat 16 (s.flist f).length } := by
  simp only [State.feedBlocked, State.levelReport, acct_setAcct_same]
  rfl

/-! ### The boundary of a feed (R22, R54) -/

theorem feedBoundary_idle (h : vget s.mirror.pendWin f ≠ .waiting ∨ s.winCond f = false) : s.feedBoundary f = s :=
  if_neg (by rcases h with h | h <;> simp [h])

theorem feedBoundary_tries (hp : vget s.mirror.pendWin f = .waiting) (hc : s.winCond f = true) :
    s.feedBoundary f = s.tryWin f := by
  rw [tryWin_examined (by rw [hp]; decide) hc]
  exact if_pos (by simp [hp, hc])

theorem setWindow_between (g : Feed) (w : Option Win) (p : PartMark) (h : (s.ctx f).parse = .between) :
    (((s.setWindow g w).setMarkWin g p).ctx f).parse = .between := by
  by_cases hg : f = g
  · subst hg
    exact congrArg (fun d => d.ctx.parse) (desk_setWindow_same (s := s) (f := f) w p)
  · exact (congrArg (fun d => d.ctx.parse) (desk_setWindow_ne (s := s) hg w p)).trans h

theorem reexamine_between (h : (s.ctx f).parse = .between) : (s.reexamine.ctx f).parse = .between := by
  refine (reexamine_keeps (key := fun u => (u.ctx f).parse) (P := (· = .between)) (fun s g hs => ?_) (fun s hs => ?_)
    h).trans h
  · unfold State.retryWin
    split
    · exact (setWindow_between g _ .clear hs).trans hs.symm
    · rfl
  · exact congrArg (fun d => d.ctx.parse) (desk_retryRing (s := s) (f := f))

theorem applyCheck_between (h : (s.ctx f).parse = .between) : (s.applyCheck.ctx f).parse = .between :=
  (congrArg (fun d => d.ctx.parse) (desk_applyCheck (s := s) f)).trans h

/-- A context in BETWEEN stays in BETWEEN, also when its window part is taken or vacated (R24, R54). -/
theorem feedBoundary_between (h : (s.ctx f).parse = .between) : ((s.feedBoundary f).ctx f).parse = .between := by
  unfold State.feedBoundary
  split
  · simp only [State.examineWin]
    (repeat' split)
    · exact applyCheck_between (reexamine_between h)
    · exact setWindow_between f none _ h
    · exact applyCheck_between (reexamine_between (setWindow_between f _ _ h))
  · exact h

end

/-! ### A byte of a header (R41, R44) -/

section
variable {s : State} {f : Feed} {o k : Nat} {h : List Byte} {b : Byte}

theorem parseByte_header (hp : (s.ctx f).parse = .header o k h) : s.parseByte f b = s.parseHeaderByte f o k h b := by
  simp only [State.parseByte, hp]

theorem parseHeaderByte_close : s.parseHeaderByte f o k h 0x03 =
    (s.post { kind := .looseCopy, feed := some f, valA := BitVec.ofNat 32 o, valB := 1 }).closeToBetween f := rfl

/-- Any other byte is counted, and stored from 20h on; the 48th ends the header (R41). -/
theorem parseHeaderByte_other (hopen : b ≠ 0x01) (htext : b ≠ 0x02) (hclose : b ≠ 0x03) :
    s.parseHeaderByte f o k h b =
      if k = 47 then s.endHeader f o (if 0x20 ≤ b.toNat then h ++ [b] else h) true
      else s.passByte f { s.ctx f with parse := .header o (k + 1) (if 0x20 ≤ b.toNat then h ++ [b] else h) } := by
  simp only [State.parseHeaderByte, if_neg hopen, if_neg htext, if_neg hclose, setParse_advance, Nat.reduceEqDiff]

/-- The Story Table's answer to the admission that a header's end asks for, the cursor past its ending byte (R44). -/
def State.headerAnswer (s : State) (f : Feed) (o : Nat) (h : List Byte) (full : Bool) : State × Option Tag :=
  let u := s.passByte f (s.ctx f)
  u.admitStory
    { feed := f, hdr := { parseHeader h with fault := (parseHeader h).fault || full }, openOff := o,
      textStart := (u.ctx f).cursor, stray := (s.ctx f).stray }

theorem endHeader_eq (full : Bool) : s.endHeader f o h full =
    (s.headerAnswer f o h full).2.elim ((s.headerAnswer f o h full).1.setParse f (.discard none)) fun t =>
      (s.headerAnswer f o h full).1.updCtx f fun c => { c with parse := .text t, stray := 0 } := by
  have hstray : ((s.passByte f (s.ctx f)).ctx f).stray = (s.ctx f).stray := by rw [passByte_ctx]
  simp only [State.endHeader, State.headerAnswer, advance_eq, hstray]
  generalize State.admitStory _ _ = r
  obtain ⟨u, _ | t⟩ := r <;> rfl

/-- A header refused: its copy is discarded, attached to no story (R44). -/
theorem endHeader_refused {full : Bool} (hr : (s.headerAnswer f o h full).2 = none) : s.endHeader f o h full =
    (s.headerAnswer f o h full).1.setCtx f
      { (s.headerAnswer f o h full).1.ctx f with parse := .discard none } := by
  rw [endHeader_eq, hr]
  rfl

/-- A header admitted: the copy that follows is its story's text (R44). -/
theorem endHeader_admitted {full : Bool} {t : Tag} (hr : (s.headerAnswer f o h full).2 = some t) :
    s.endHeader f o h full = (s.headerAnswer f o h full).1.setCtx f
      { (s.headerAnswer f o h full).1.ctx f with parse := .text t, stray := 0 } := by
  rw [endHeader_eq, hr]
  rfl

end

/-! ### A byte of a story's text, and the close of the story (R45 to R47, R61, R62) -/

section
variable {s : State} {f : Feed} {t : Tag} {st : Story} {b : Byte}

theorem parseByte_text (hp : (s.ctx f).parse = .text t) : s.parseByte f b = s.parseText f t b := by
  simp only [State.parseByte, hp]

theorem parseText_take (hs : s.story t = some st) : s.parseText f t 0x04 =
    (s.setStory t (some { st with takes := satInc 255 st.takes })).passByte f (s.ctx f) :=
  congrArg (State.advance · f) (updStory_live hs _)

theorem parseText_kill : s.parseText f t 0x18 = s.passByte f { s.ctx f with parse := .killnum (.text t) 0 0 } :=
  setParse_advance _

theorem parseText_close : s.parseText f t 0x03 = (s.closeEvent t (s.ctx f).cursor false).closeToBetween f := rfl

theorem parseText_open : s.parseText f t 0x01 = (s.closeEvent t (s.ctx f).cursor true).beginHeader f := rfl

theorem parseText_other (hopen : b ≠ 0x01) (hclose : b ≠ 0x03) (htake : b ≠ 0x04) (hkill : b ≠ 0x18) :
    s.parseText f t b = s.passByte f (s.ctx f) := by
  simp only [State.parseText, if_neg hopen, if_neg hclose, if_neg htake, if_neg hkill, advance_eq]

theorem closeEvent_past (off : Nat) (un : Bool) (hs : s.story t = some st) (hst : st.state ≠ .open_) :
    s.closeEvent t off un = s := by
  simp only [State.closeEvent, hs, if_neg hst]

theorem closeEvent_open (off : Nat) (un : Bool) (hs : s.story t = some st) (hst : st.state = .open_) :
    s.closeEvent t off un = (((((s.setStory t (some { st with
      state := .closed, textEnd := off, unclosed := st.unclosed || un })).endStarving t).clearDry t).settleServing
        t).retireTest t) := by
  simp only [State.closeEvent, hs, if_pos hst]

theorem passEvent_live (un : Bool) (hs : s.story t = some st) : s.passEvent t un =
    (s.setStory t (some { st with kwo := false, unclosed := st.unclosed || un })).retireTest t := by
  rw [State.passEvent, updStory_live hs]

theorem serving_eq (n : Circ) : s.serving t n = ((s.circ n).sch.item == some (.story t)) := by
  unfold State.serving Sched.tag
  cases (s.circ n).sch.item with
  | none => rfl
  | some i => cases i <;> simp

theorem settleServing_eq : s.settleServing t =
    (allCircs.filter fun n => (s.circ n).sch.item == some (.story t)).foldl State.settleLine s := by
  have hserving : s.serving t = fun n => (s.circ n).sch.item == some (.story t) := funext serving_eq
  rw [State.settleServing, hserving]

/-- Circuit n's starvation count returns to 0 (R98). -/
def State.clearStarve (s : State) (n : Circ) : State := s.updSch n fun c => { c with starve := 0 }

theorem endStarving_eq : s.endStarving t = (allCircs.filter (s.serving t)).foldl State.clearStarve s := rfl

theorem endStarving_stories : (s.endStarving t).stories = s.stories :=
  foldl_keeps (op := State.clearStarve) (key := State.stories) (P := fun _ => True) (fun _ _ _ => rfl) _ trivial

/-- The starvation count returns to 0 where the story is in service, and nothing else of a circuit moves (R98). -/
theorem endStarving_circ (n : Circ) : (s.endStarving t).circ n =
    if (s.circ n).sch.item = some (.story t) then { s.circ n with sch := { (s.circ n).sch with starve := 0 } }
    else s.circ n := by
  have h := foldl_circs_at (s := s) (op := State.clearStarve) (key := (State.circ · n))
    (F := fun c => { c with sch := { c.sch with starve := 0 } }) (fun s => circ_updSch_same s n _)
    (fun s _ hm => circ_updSch_ne s hm _) (allCircs_nodup.filter (s.serving t))
  simpa only [List.mem_filter, mem_allCircs, true_and, serving_eq, beq_iff_eq, endStarving_eq] using h

end

/-! ### A discarded byte (R48) -/

section
variable {s : State} {f : Feed} {o : Option Tag} {b : Byte}

theorem parseByte_discard (hp : (s.ctx f).parse = .discard o) : s.parseByte f b = s.parseDiscard f o b := by
  simp only [State.parseByte, hp]

theorem parseDiscard_close : s.parseDiscard f o 0x03 = (s.passAttached o false).closeToBetween f := rfl

theorem parseDiscard_open : s.parseDiscard f o 0x01 = (s.passAttached o true).beginHeader f := rfl

theorem parseDiscard_kill : s.parseDiscard f o 0x18 = s.passByte f { s.ctx f with parse := .killnum (.discard o) 0 0 } :=
  setParse_advance _

theorem parseDiscard_other (hopen : b ≠ 0x01) (hclose : b ≠ 0x03) (hkill : b ≠ 0x18) :
    s.parseDiscard f o b = s.passByte f (s.ctx f) := by
  simp only [State.parseDiscard, if_neg hopen, if_neg hclose, if_neg hkill, advance_eq]

end

/-! ### A byte of a directive, and its end (R52 to R54) -/

section
variable {s : State} {f : Feed} {r : Ret} {k v : Nat} {b : Byte}

theorem isDigit_iff : isDigit b = true ↔ 0x30 ≤ b.toNat ∧ b.toNat ≤ 0x39 := by simp [isDigit]

theorem parseByte_killnum (hp : (s.ctx f).parse = .killnum r k v) : s.parseByte f b = s.parseKillnum f r k v b := by
  simp only [State.parseByte, hp]

theorem satInc_eq_min (top n : Nat) : satInc top n = min top (n + 1) := by
  unfold satInc
  split <;> omega

theorem parseKillnum_digit (hb : isDigit b = true) : s.parseKillnum f r k v b = s.passByte f { s.ctx f with
    parse := .killnum r (min 6 (k + 1)) (if k < 5 then 10 * v + (b.toNat - 0x30) else v) } := by
  rw [State.parseKillnum, if_pos hb, setParse_advance, satInc_eq_min]

theorem parseKillnum_end (hb : ¬ isDigit b = true) :
    s.parseKillnum f r k v b = (s.directive f k v).returnParse f b := if_neg hb

theorem directive_number (h : 1 ≤ k ∧ k ≤ 5 ∧ v ≤ 65535) : s.directive f k v =
    if (s.killNumber .directive f (BitVec.ofNat 16 v)).2 then (s.killNumber .directive f (BitVec.ofNat 16 v)).1
    else (s.killNumber .directive f (BitVec.ofNat 16 v)).1.post
      { kind := .killUnmatched, feed := some f, number := some (BitVec.ofNat 16 v), valA := 0 } := if_pos h

theorem directive_faulty (h : ¬(1 ≤ k ∧ k ≤ 5 ∧ v ≤ 65535)) : s.directive f k v =
    s.post { kind := .killUnmatched, feed := some f, number := none, valA := 1 } := if_neg h

/-- The Mirror is told before the ending byte, which is processed in BETWEEN if the feed has a window still (R53, R54). -/
theorem returnParse_between {i j : Nat} (hp : (s.ctx f).parse = .killnum .between i j) : s.returnParse f b =
    let w := (s.setCtx f { s.ctx f with parse := .between }).feedBoundary f
    if (w.fcfg f).win = none then w else w.parseByte f b := by
  have hbetween : (((s.setCtx f { s.ctx f with parse := .between }).feedBoundary f).ctx f).parse = .between :=
    feedBoundary_between (by rw [ctx_setCtx_same])
  simp only [State.returnParse, hp, parseByte_between hbetween]
  rfl

theorem returnParse_text {t : Tag} {i j : Nat} (hp : (s.ctx f).parse = .killnum (.text t) i j) : s.returnParse f b =
    (s.setCtx f { s.ctx f with parse := .text t }).parseByte f b := by
  have htext : ((s.setCtx f { s.ctx f with parse := .text t }).ctx f).parse = .text t := by rw [ctx_setCtx_same]
  simp only [State.returnParse, hp, parseByte_text htext]
  rfl

theorem returnParse_discard {o : Option Tag} {i j : Nat} (hp : (s.ctx f).parse = .killnum (.discard o) i j) :
    s.returnParse f b = (s.setCtx f { s.ctx f with parse := .discard o }).parseByte f b := by
  have hdiscard : ((s.setCtx f { s.ctx f with parse := .discard o }).ctx f).parse = .discard o := by rw [ctx_setCtx_same]
  simp only [State.returnParse, hp, parseByte_discard hdiscard]
  rfl

/-- Settles O30: the four steps of a taken write turn by turn, then one byte in each parse state, and the end of a
directive. -/
theorem takenWriteIsParsed : Obligations.TakenWriteIsParsed := by
  unfold Obligations.TakenWriteIsParsed
  intro past header between
  refine ⟨fun s x f off h ht => exec_hostFeedWrite_taken h ht,
    fun s f => ⟨fun n => overrunTest_fits, fun n h => if_pos h, fun n k h => cutLoop_fits k h,
      fun n k t l h hl => cutLoop_head k h hl, fun t h => if_neg h, fun t h => if_pos h, rfl,
      fun bs h => parseBytes_closed bs h, fun b bs h => if_neg h, growthStep_none, fun t st => growthStep_growing,
      fun t st => clearDry_live, fun h => if_pos h, fun h => if_neg h, spikeTest_below,
      fun l k t q st hlevel hocc hl hs => ?_, feedBoundary_idle, feedBoundary_tries⟩,
    fun s f b o k h hp => ?_, fun s f o h full => ?_, fun s f b t st hp hs => ?_, fun s t st off un hs => ?_,
    fun s f b o hp => ?_, fun s f b r k v hp => ?_,
    fun s f k v b => ⟨fun h1 h5 hv => directive_number ⟨h1, h5, hv⟩, directive_faulty, fun i j => returnParse_between,
      fun t i j => returnParse_text, fun o i j => returnParse_discard⟩⟩
  · have hhead := spikeTest_head k (overSpike_iff.2 ⟨l, hlevel, hocc⟩) hl hs
    refine ⟨fun hst => ?_, fun hst hcls => ?_, fun hst hcls => ?_⟩
    · rw [hhead, if_neg (by rcases hst with h | h <;> simp [h])]
    · rw [hhead, if_pos hst, if_pos hcls]
    · rw [hhead, if_pos hst, if_neg (Nat.not_le.2 hcls), feedBlocked_eq]
  · rw [parseByte_header hp]
    refine ⟨?_, ?_, ?_, fun hopen htext hclose => ⟨fun hk => ?_, fun hk => ?_⟩⟩
    · rintro rfl
      rfl
    · rintro rfl
      exact beginHeader_eq
    · rintro rfl
      exact parseHeaderByte_close.trans closeToBetween_eq
    · rw [parseHeaderByte_other hopen htext hclose, if_neg hk]
      rfl
    · rw [parseHeaderByte_other hopen htext hclose, if_pos hk]
  · exact ⟨endHeader_refused, fun t => endHeader_admitted⟩
  · rw [parseByte_text hp]
    refine ⟨?_, ?_, ?_, ?_, fun hopen hclose htake hkill => parseText_other hopen hclose htake hkill⟩
    · rintro rfl
      exact parseText_take hs
    · rintro rfl
      exact parseText_kill
    · rintro rfl
      exact parseText_close.trans closeToBetween_eq
    · rintro rfl
      exact parseText_open.trans beginHeader_eq
  · exact ⟨closeEvent_past off un hs,
      fun hst => ⟨closeEvent_open off un hs hst, endStarving_stories, fun n => endStarving_circ n⟩,
      passEvent_live un hs, settleServing_eq⟩
  · rw [parseByte_discard hp]
    refine ⟨?_, ?_, ?_, parseDiscard_other⟩
    · rintro rfl
      exact parseDiscard_close.trans closeToBetween_eq
    · rintro rfl
      exact parseDiscard_open.trans beginHeader_eq
    · rintro rfl
      exact parseDiscard_kill
  · rw [parseByte_killnum hp]
    exact ⟨fun hb => parseKillnum_digit (isDigit_iff.2 hb), fun hb => parseKillnum_end (mt isDigit_iff.1 hb)⟩

end
end Sys2Proof.Machine
end

section
namespace Sys2Proof.Machine

/-! ### The account and the boundary of a feed: what they leave alone (R73, R78) -/

section
variable {s : State} {f : Feed} {t : Tag} {st : Story}

/-- The recomputation reaches the accounts and the Report Writer (R78). -/
theorem recompute_told : ∃ c, Told { s with accounts := c } (s.recompute f) := by
  simp only [State.recompute]
  split
  · exact ⟨_, by rw [setAccount_eq]; exact .refl _⟩
  · obtain ⟨b, h⟩ := warnTest_told (s := s.setAccount f) (f := f)
    refine ⟨((s.setAccount f).setAcct f { (s.setAccount f).acct f with warn := b }).accounts, ?_⟩
    rw [setAccount_eq] at h ⊢
    exact h

/-- What reads none of those is kept by the recomputation. -/
theorem recompute_keeps {α : Type} (key : State → α)
    (hkey : ∀ c w l b, key { s with
      accounts := c, writer := w, mirror := { s.mirror with writeList := l, resetWait := b } } = key s) :
    key (s.recompute f) = key s := by
  obtain ⟨c, w, l, b, h⟩ := recompute_told (s := s) (f := f)
  rw [h]
  exact hkey c w l b

theorem setAccount_acct_ne {g : Feed} (hg : g ≠ f) : (s.setAccount f).acct g = s.acct g := by
  unfold State.setAccount
  split
  · rfl
  · exact acct_setAcct_ne s (Ne.symm hg) _

theorem setAccount_acct (hw : (s.fcfg f).win ≠ none) : (s.setAccount f).acct f =
    { s.acct f with release := (s.accountOf f).1, occ := (s.accountOf f).2 } := by
  rw [State.setAccount, if_neg hw, acct_setAcct_same]

theorem warnTest_acct_ne {g : Feed} (hg : g ≠ f) : (s.warnTest f).acct g = s.acct g := by
  obtain ⟨b, h⟩ := warnTest_told (s := s) (f := f)
  exact (h.keeps (State.acct · g) fun _ _ _ => rfl).trans (acct_setAcct_ne s (Ne.symm hg) _)

theorem recompute_acct_ne {g : Feed} (hg : g ≠ f) : (s.recompute f).acct g = s.acct g := by
  simp only [State.recompute]
  split
  · exact setAccount_acct_ne hg
  · exact (warnTest_acct_ne hg).trans (setAccount_acct_ne hg)

theorem recompute_disabled (hw : (s.fcfg f).win = none) : s.recompute f = s := by
  simp only [State.recompute, State.setAccount, if_pos hw, if_true]

/-- A window part taken, vacated or dropped reaches what is applied, the intake, the accounts, the Mirror and the Report
Writer (R22 to R24). -/
theorem feedBoundary_keeps {α : Type} (key : State → α)
    (hkey : ∀ (u : State) a i c m w,
      key { u with applied := a, intake := i, accounts := c, mirror := m, writer := w } = key u) :
    key (s.feedBoundary f) = key s := by
  have happly : ∀ u : State, key u.applyCheck = key u := fun u =>
    applyCheck_keeps key fun _ _ _ _ => hkey u u.applied u.intake u.accounts _ _
  have hre : ∀ u : State, key u.reexamine = key u := fun u => by
    refine reexamine_keeps (key := key) (P := fun _ => True) (fun v g _ => ?_) (fun v _ => ?_) trivial
    · unfold State.retryWin
      split
      · exact hkey v _ _ _ _ v.writer
      · rfl
    · unfold State.retryRing
      split
      · obtain ⟨w, l, b, h⟩ := setRing_told (s := v) (stagedRing v.mirror.staging)
        rw [h]
        exact hkey v _ v.intake v.accounts _ w
      · rfl
  unfold State.feedBoundary
  split
  · simp only [State.examineWin]
    (repeat' split)
    · rw [happly, hre]
      exact hkey s s.applied s.intake s.accounts _ s.writer
    · exact hkey s _ _ _ _ s.writer
    · rw [happly, hre]
      exact hkey s _ _ _ _ s.writer
  · rfl

theorem unlink_acct_same : (s.unlink f t).acct f =
    { s.acct f with blocked := if (s.acct f).blocked = some t then none else (s.acct f).blocked } := by
  have hset : (s.setFlist f ((s.flist f).filter (· != t))).acct f = s.acct f := rfl
  simp only [State.unlink, hset]
  split
  · rw [acct_setAcct_same]
  · rfl

theorem unlink_acct_ne {g : Feed} (hg : g ≠ f) : (s.unlink f t).acct g = s.acct g := by
  simp only [State.unlink]
  split
  · exact acct_setAcct_ne _ (Ne.symm hg) _
  · rfl

theorem flist_setFlist_ne {g : Feed} (hg : g ≠ f) (l : List Tag) : (s.setFlist f l).flist g = s.flist g :=
  vget_vset_ne _ _ (Ne.symm hg)

end

/-! ### The retirement of a story (R72 to R74) -/

section
variable {s : State} {t : Tag} {st : Story}

theorem mayRetire_iff : st.mayRetire = true ↔ st.openAtIntake = false ∧ ∀ n, st.activeOn n = false := by
  simp [Story.mayRetire, mem_allCircs]

theorem retireTest_stays (hs : s.story t = some st) (h : st.openAtIntake = true ∨ ∃ n, st.activeOn n = true) :
    s.retireTest t = s := by
  have hstay : ¬ st.mayRetire = true := by
    rw [mayRetire_iff]
    rintro ⟨hclosed, hidle⟩
    rcases h with ho | ⟨n, hn⟩
    · simp [hclosed] at ho
    · simp [hidle n] at hn
  simp only [State.retireTest, hs, if_neg hstay]

theorem retireTest_retires (hs : s.story t = some st) (ho : st.openAtIntake = false)
    (ha : ∀ n, st.activeOn n = false) : s.retireTest t = s.retire t st := by
  simp only [State.retireTest, hs, if_pos (mayRetire_iff.2 ⟨ho, ha⟩)]

theorem retireHistory_none (h : st.number = none ∨ st.sent = 0) : s.retireHistory st = s := by
  unfold State.retireHistory
  split
  · rfl
  · rename_i n hn
    exact if_pos (h.resolve_left (by simp [hn]))

theorem retireHistory_numbered {m : BitVec 16} (hm : st.number = some m) (h : st.sent ≠ 0) : s.retireHistory st = { s with
    history := { feed := st.feed, number := m, slug := st.slug, cls := st.cls, circs := st.sent }
      :: s.history.take 63 } := by
  simp only [State.retireHistory, hm, if_neg h]
  rfl

theorem retireHistory_eq : s.retireHistory st = { s with history := (s.retireHistory st).history } := by
  unfold State.retireHistory
  (repeat' split) <;> rfl

/-- The story out of the number index, the admission list and its feed's list, its history entry left: steps 1 to 3 of its
retirement (R72, R82). -/
def State.delisted (s : State) (t : Tag) (st : Story) : State :=
  State.unlink { (s.retireHistory st).indexErase t with
    admission := (s.retireHistory st).admission.filter (· != t) } st.feed t

/-- The steps of a retirement in their order (R72, R73, R78). -/
theorem retire_eq : s.retire t st =
    ((((s.delisted t st).recompute st.feed).post (retiredReport t st)).setStory t none).feedBoundary st.feed := rfl

theorem delisted_eq : s.delisted t st = { s with
    history := (s.retireHistory st).history
    index := s.index.filter (fun e => e.tag != t)
    admission := s.admission.filter (· != t)
    feedLists := vset s.feedLists st.feed ((s.flist st.feed).filter (· != t))
    accounts := (s.delisted t st).accounts } := by
  conv_lhs => rw [State.delisted, unlink_eq]
  rw [State.delisted, retireHistory_eq]
  rfl

theorem delisted_flist_same : (s.delisted t st).flist st.feed = (s.flist st.feed).filter (· != t) := by
  rw [delisted_eq]
  exact vget_vset_same _ _ _

theorem delisted_flist_ne {f : Feed} (hf : f ≠ st.feed) : (s.delisted t st).flist f = s.flist f := by
  rw [delisted_eq]
  exact vget_vset_ne _ _ (Ne.symm hf)

theorem delisted_acct_same : (s.delisted t st).acct st.feed = { s.acct st.feed with
    blocked := if (s.acct st.feed).blocked = some t then none else (s.acct st.feed).blocked } := by
  rw [State.delisted, unlink_acct_same, retireHistory_eq]
  rfl

theorem delisted_acct_ne {f : Feed} (hf : f ≠ st.feed) : (s.delisted t st).acct f = s.acct f := by
  rw [State.delisted, unlink_acct_ne hf, retireHistory_eq]
  rfl

theorem retire_admission : (s.retire t st).admission = s.admission.filter (· != t) := by
  rw [retire_eq, feedBoundary_keeps State.admission fun _ _ _ _ _ _ => rfl]
  refine ((post_told _).keeps State.admission fun _ _ _ => rfl).trans ?_
  rw [recompute_keeps State.admission fun _ _ _ _ => rfl, delisted_eq]

theorem retire_story (u : Tag) : (s.retire t st).story u = if t = u then none else s.story u := by
  rw [State.story, stories_retire, vget_vset]
  rfl

/-- Settles O34: a story stays or retires by R72's condition, and State.delisted is the state between the lists and the
account. -/
theorem retirementTest : Obligations.RetirementTest := by
  intro s t st hs
  refine ⟨retireTest_stays hs, fun ho ha => ?_⟩
  rw [retireTest_retires hs ho ha]
  refine ⟨by rw [retire_story, if_pos rfl], by simp [retire_admission],
    fun u hu => by rw [retire_story, if_neg (Ne.symm hu)], s.delisted t st, ?_, fun h => ?_, fun m hm hsent => ?_, ?_⟩
  · have hocc : ((s.delisted t st).acct st.feed).occ = (s.acct st.feed).occ := by rw [delisted_acct_same]
    rw [retire_eq, State.recompute, hocc]
    rfl
  · rw [delisted_eq, retireHistory_none h]
  · rw [delisted_eq, retireHistory_numbered hm hsent]
  · refine ⟨by rw [delisted_eq], by rw [delisted_eq], delisted_flist_same, fun f => delisted_flist_ne, delisted_acct_same,
      fun f => delisted_acct_ne, ?_⟩
    rw [delisted_eq]
    exact ⟨rfl, rfl, rfl, rfl, rfl, rfl, rfl⟩

end
end Sys2Proof.Machine
end

section
namespace Sys2Proof.Machine

/-! ### The number index and the kill history (R60, R65, R69, R74) -/

section
variable {s : State} {f : Feed} {k : BitVec 16} {t : Tag}

theorem keyIs_iff (e : IndexEntry) : e.keyIs f k = true ↔ e.feed = f ∧ e.number = k := by
  simp [IndexEntry.keyIs]

/-- A key maps to what it was last set to (R60). -/
theorem indexFind_indexSet (g : Feed) (m : BitVec 16) :
    (s.indexSet f k t).indexFind g m = if g = f ∧ m = k then some t else s.indexFind g m := by
  simp only [State.indexFind, State.indexSet, List.find?_cons, List.find?_filter]
  by_cases h : g = f ∧ m = k
  · obtain ⟨rfl, rfl⟩ := h
    simp [IndexEntry.keyIs]
  · have hnew : IndexEntry.keyIs { feed := f, number := k, tag := t } g m = false := by
      rw [Bool.eq_false_iff, Ne, keyIs_iff]
      rintro ⟨rfl, rfl⟩
      exact h ⟨rfl, rfl⟩
    have hold : (fun e : IndexEntry => !e.keyIs f k && e.keyIs g m) = fun e => e.keyIs g m := by
      funext e
      by_cases he : e.keyIs g m = true
      · obtain ⟨rfl, rfl⟩ := (keyIs_iff e).1 he
        have hother : e.keyIs f k = false := by
          rw [Bool.eq_false_iff, Ne, keyIs_iff]
          exact h
        rw [hother, he]
        rfl
      · simp [he]
    simp [hnew, h, hold]

theorem historyPlace_none {l : List HistEntry} (h : ∀ x ∈ l, ¬(x.feed = f ∧ x.number = k)) (i : Nat) :
    historyPlace f k l i = none := by
  induction l generalizing i with
  | nil => rfl
  | cons x l ih =>
    rw [historyPlace, if_neg (h x List.mem_cons_self)]
    exact ih (fun y hy => h y (List.mem_cons_of_mem _ hy)) _

/-- The newest entry of a key is the first one. -/
theorem historyPlace_first {a b : List HistEntry} {h : HistEntry} (hf : h.feed = f) (hk : h.number = k)
    (ha : ∀ x ∈ a, ¬(x.feed = f ∧ x.number = k)) (i : Nat) :
    historyPlace f k (a ++ h :: b) i = some (i + a.length) := by
  induction a generalizing i with
  | nil => exact if_pos ⟨hf, hk⟩
  | cons x a ih =>
    rw [List.cons_append, historyPlace, if_neg (ha x List.mem_cons_self),
      ih (fun y hy => ha y (List.mem_cons_of_mem _ hy)), List.length_cons, Nat.add_right_comm, Nat.add_assoc]

theorem killNumber_indexed (src : KillSource) (h : s.indexFind f k = some t) :
    s.killNumber src f k = (s.killLive src t, true) := by
  simp only [State.killNumber, h]

theorem killNumber_unmatched (src : KillSource) (hi : s.indexFind f k = none)
    (hh : ∀ x ∈ s.history, ¬(x.feed = f ∧ x.number = k)) : s.killNumber src f k = (s, false) := by
  simp only [State.killNumber, hi, historyPlace_none hh]

theorem killNumber_history (src : KillSource) {a b : List HistEntry} {h : HistEntry} (hi : s.indexFind f k = none)
    (hh : s.history = a ++ h :: b) (hf : h.feed = f) (hk : h.number = k)
    (ha : ∀ x ∈ a, ¬(x.feed = f ∧ x.number = k)) : s.killNumber src f k = (s.killHistory src a.length h, true) := by
  have hplace : historyPlace f k s.history 0 = some a.length := by
    rw [hh, historyPlace_first hf hk ha, Nat.zero_add]
  have hat : s.history[a.length]? = some h := by simp [hh]
  simp only [State.killNumber, hi, hplace, hat]

/-- The entry matched goes, its circuits that are not OFF are noticed, and KILL_DONE is posted (R69). -/
theorem killHistory_eq (src : KillSource) {a b : List HistEntry} {h : HistEntry} (hh : s.history = a ++ h :: b) :
    s.killHistory src a.length h =
      let r := State.makeNotices { s with history := a ++ b } src.kind
        { feed := h.feed, tag := none, number := some h.number, slug := h.slug }
        (allCircs.filter fun n => CircSet.has h.circs n && (s.circ n).lu.state != .off)
      r.1.post { kind := .killDone, feed := some h.feed, cls := some h.cls, number := some h.number,
                 valA := wordOf (byteN src.code) 1 0 0, valB := BitVec.ofNat 16 r.2 } := by
  have herase : s.history.eraseIdx a.length = a ++ b := by
    rw [hh, List.eraseIdx_append_of_length_le (Nat.le_refl _), Nat.sub_self]
    rfl
  simp only [State.killHistory, herase]
  rfl

/-- A kill that matches nothing changes nothing (R65). -/
theorem killNumber_false (src : KillSource) : s.killNumber src f k = (s, false) ∨ (s.killNumber src f k).2 = true := by
  unfold State.killNumber
  (repeat' split)
  · exact .inr rfl
  · exact .inl rfl
  · exact .inl rfl
  · exact .inr rfl

end

/-! ### The notice pool (R100, R101) -/

section
variable {s : State} {k : NoticeKind} {x : NoticeSource}

/-- The first of all the numbers that passes a test. -/
theorem find_finRange {n : Nat} {p : Fin n → Bool} {i : Fin n} (hi : p i = true) (h : ∀ j, j < i → p j = false) :
    (List.finRange n).find? p = some i :=
  (List.find?_ofFn_eq_some_of_injective Function.injective_id).2 ⟨hi, fun j hj => by simp [h j hj]⟩

theorem freeNotice_first {i : Slot32} (hi : s.notice i = none) (h : ∀ j, j < i → s.notice j ≠ none) :
    s.freeNotice = some i :=
  find_finRange (by simp [hi]) fun j hj => by simpa [Option.isSome_iff_ne_none] using h j hj

theorem freeNotice_full (h : ∀ i, s.notice i ≠ none) : s.freeNotice = none := by
  simp [State.freeNotice, h]

theorem makeNotices_full {targets : List Circ} (ht : targets ≠ []) (h : ∀ i, s.notice i ≠ none) :
    s.makeNotices k x targets = (s.post (noticeDropped k x targets.length), 0) := by
  simp only [State.makeNotices, List.isEmpty_iff, if_neg ht, freeNotice_full h]

theorem makeNotices_free {targets : List Circ} (ht : targets ≠ []) {i : Slot32} (hi : s.notice i = none)
    (h : ∀ j, j < i → s.notice j ≠ none) : s.makeNotices k x targets =
      (targets.foldl (State.queueNotice i) (s.setNotice i (some (s.noticeFor k x targets.length))), targets.length) := by
  simp only [State.makeNotices, List.isEmpty_iff, if_neg ht, freeNotice_first hi h]

theorem noticeHere_full (n : Circ) (h : ∀ i, s.notice i ≠ none) : s.noticeHere n k x = s.post (noticeDropped k x 1) := by
  simp only [State.noticeHere, freeNotice_full h]

theorem noticeHere_free (n : Circ) {i : Slot32} (hi : s.notice i = none) (h : ∀ j, j < i → s.notice j ≠ none) :
    s.noticeHere n k x = (s.setNotice i (some (s.noticeFor k x 1))).enqueueNew n (.notice i) := by
  simp only [State.noticeHere, freeNotice_first hi h]

theorem releaseRef_free {i : Slot32} (h : s.notice i = none) : s.releaseRef i = s := by
  simp only [State.releaseRef, h]

theorem releaseRef_taken {i : Slot32} {y : Notice} (h : s.notice i = some y) : s.releaseRef i =
    s.setNotice i (if y.refs ≤ 1 then none else some { y with refs := y.refs - 1 }) := by
  simp only [State.releaseRef, h]

theorem mem_indexErase (t : Tag) (e : IndexEntry) : e ∈ (s.indexErase t).index ↔ e ∈ s.index ∧ e.tag ≠ t := by
  simp [State.indexErase]

/-- Settles O37: the two places a number is looked up in, the history entry of a retirement, and the pool. -/
theorem numbersAndNotices : Obligations.NumbersAndNotices := by
  refine ⟨fun s src f k => ⟨fun t => killNumber_indexed src, fun hi => ⟨killNumber_unmatched src hi, ?_⟩⟩,
    fun s st => ⟨retireHistory_none, fun k => retireHistory_numbered⟩,
    fun s t => ⟨rfl, mem_indexErase t⟩,
    fun s k x => ⟨rfl, fun targets ht => ⟨makeNotices_full ht, fun i => makeNotices_free ht⟩⟩,
    fun s i => ⟨releaseRef_free, fun x => releaseRef_taken⟩⟩
  intro a h b hh hf hk ha
  rw [killNumber_history src hi hh hf hk ha, killHistory_eq src hh, hf, hk]

end
end Sys2Proof.Machine
end

section
namespace Sys2Proof.Machine

/-! ### The entry and the route set of an admission (R56 to R58) -/

section
variable {s : State} {a : Admission} {t : Tag} {st : Story}

theorem servedOn_iff (n : Circ) : st.servedOn n = true ↔ ∃ d, st.delivery n = some d ∧ d.state = .inService := by
  unfold Story.servedOn
  cases st.delivery n <;> simp

/-- A victim: closed, ROUTINE or worse, sent nowhere and in service nowhere (R56). -/
theorem victim_iff : st.victim = true ↔ st.state = .closed ∧ 3 ≤ st.cls.1 ∧ st.sent = 0 ∧
    ∀ n d, st.delivery n = some d → d.state ≠ .inService := by
  have hserved : (allCircs.any st.servedOn) = false ↔ ∀ n d, st.delivery n = some d → d.state ≠ .inService := by
    simp [Bool.eq_false_iff, mem_allCircs, servedOn_iff]
  simp only [Story.victim, Bool.and_eq_true, Bool.not_eq_true', hserved, beq_iff_eq, decide_eq_true_eq, and_assoc]

theorem any_victim_iff : (s.story t).any Story.victim = true ↔ ∃ st, s.story t = some st ∧ st.victim = true := by
  cases s.story t <;> simp

theorem chooseEntry_free (hs : s.story t = none) (h : ∀ u, u < t → s.story u ≠ none) :
    s.chooseEntry = (s, some t) := by
  have hfind : (allTags.find? fun t => (s.story t).isNone) = some t :=
    find_finRange (by simp [hs]) fun u hu => by simpa [Option.isSome_iff_ne_none] using h u hu
  simp only [State.chooseEntry, hfind]

theorem freeEntry_none (h : ∀ t, s.story t ≠ none) : (allTags.find? fun t => (s.story t).isNone) = none := by simp [h]

theorem chooseEntry_refused (h : ∀ t, s.story t ≠ none)
    (hv : (s.admission.find? fun t => (s.story t).any Story.victim) = none) : s.chooseEntry = (s, none) := by
  simp only [State.chooseEntry, freeEntry_none h, hv]

theorem chooseEntry_victim (h : ∀ t, s.story t ≠ none)
    (hv : (s.admission.find? fun t => (s.story t).any Story.victim) = some t) :
    s.chooseEntry = (s.killLive .victim t, some t) := by
  simp only [State.chooseEntry, freeEntry_none h, hv]

theorem admitStory_refused (h : s.chooseEntry = (s, none)) : s.admitStory a =
    (s.post { kind := .tableFull, feed := some a.feed, cls := some a.hdr.cls, number := a.hdr.number,
              valA := BitVec.ofNat 32 a.openOff }, none) := by
  simp only [State.admitStory, h]

theorem admitStory_chosen {u : State} (h : s.chooseEntry = (u, some t)) :
    s.admitStory a = (u.fillEntry a t, some t) := by
  simp only [State.admitStory, h]

theorem has_add (c : CircSet) (n m : Circ) : CircSet.has (c.add m) n = (CircSet.has c n || decide (m = n)) := by
  have hbit : BitVec.getLsbD (1#8 <<< m.1) n.1 = decide (m = n) := by revert m n; decide
  rw [CircSet.has, CircSet.add, BitVec.getLsbD_or, hbit, CircSet.has]

theorem has_circSetOf (ns : List Circ) (n : Circ) : CircSet.has (circSetOf ns) n = true ↔ n ∈ ns := by
  have hfold : ∀ (ns : List Circ) (c : CircSet),
      CircSet.has (ns.foldl CircSet.add c) n = true ↔ CircSet.has c n = true ∨ n ∈ ns := by
    intro ns
    induction ns with
    | nil => simp
    | cons m ns ih =>
      intro c
      rw [List.foldl_cons, ih, has_add, Bool.or_eq_true, decide_eq_true_eq, List.mem_cons, or_assoc, eq_comm (a := m)]
  rw [circSetOf, hfold]
  simp [CircSet.has]

theorem mem_routeList (f : Feed) (c : StoryClass) (n : Circ) :
    n ∈ s.routeList f c ↔ CircSet.has (s.routeEntry f c) n = true ∧ (s.circ n).lu.state ≠ .off := by
  simp [State.routeList, mem_allCircs, State.circUp]

theorem routeList_sorted (f : Feed) (c : StoryClass) : (s.routeList f c).Pairwise (· < ·) :=
  List.Pairwise.filter _ (by decide)

end

/-! ### The record, the lists and the account of an admitted story (R58, R78) -/

section
variable {s : State} {a : Admission} {t : Tag} {route : List Circ}

/-- The record entered and the tag on both lists, before the account (R58). -/
def State.entered (s : State) (a : Admission) (t : Tag) (route : List Circ) : State :=
  { s.setStory t (some (a.record route)) with
    admission := s.admission ++ [t], feedLists := vset s.feedLists a.feed (s.flist a.feed ++ [t]) }

theorem enterStory_eq : s.enterStory a t route = (s.entered a t route).recompute a.feed := rfl

theorem entered_flist : (s.entered a t route).flist a.feed = s.flist a.feed ++ [t] := vget_vset_same _ _ _

theorem entered_story (u : Tag) : (s.entered a t route).story u = if t = u then some (a.record route) else s.story u :=
  vget_vset _ _ _ _

/-- What the account's recomputation does not reach is as State.entered has it. -/
theorem enterStory_keeps {α : Type} (key : State → α)
    (hkey : ∀ (u : State) c w l b, key { u with
      accounts := c, writer := w, mirror := { u.mirror with writeList := l, resetWait := b } } = key u) :
    key (s.enterStory a t route) = key (s.entered a t route) := by
  rw [enterStory_eq]
  exact recompute_keeps key (hkey _)

theorem enterStory_story (u : Tag) :
    (s.enterStory a t route).story u = if t = u then some (a.record route) else s.story u :=
  (enterStory_keeps (State.story · u) fun _ _ _ _ _ => rfl).trans (entered_story u)

theorem enterStory_flist (f : Feed) : (s.enterStory a t route).flist f = (s.entered a t route).flist f :=
  enterStory_keeps (State.flist · f) fun _ _ _ _ _ => rfl

theorem enterStory_acct_ne {f : Feed} (hf : f ≠ a.feed) : (s.enterStory a t route).acct f = s.acct f := by
  rw [enterStory_eq, recompute_acct_ne hf]
  rfl

/-- The account follows the head of the list: the new story, if the list was empty (R77, R78). -/
theorem entered_accountOf {o : Nat}
    (h : s.flist a.feed = [] ∧ o = a.openOff ∨
      ∃ u l st, s.flist a.feed = u :: l ∧ u ≠ t ∧ s.story u = some st ∧ o = st.openOff) :
    (s.entered a t route).accountOf a.feed =
      (o, if ringDist (s.fsize a.feed) o (s.ctx a.feed).cursor = 0 then s.fsize a.feed
        else ringDist (s.fsize a.feed) o (s.ctx a.feed).cursor) := by
  rcases h with ⟨hl, rfl⟩ | ⟨u, l, st, hl, hu, hs, rfl⟩
  · simp only [State.accountOf, entered_flist, hl, List.nil_append, entered_story, if_true]
    rfl
  · simp only [State.accountOf, entered_flist, hl, List.cons_append, entered_story, if_neg (Ne.symm hu), hs]
    rfl

theorem createDelivery_eq {st : Story} (off : Nat) (n : Circ) (hs : s.story t = some st) :
    State.createDelivery t off s n = State.sched (State.enqueueNew
      (s.setStory t (some (st.setDelivery n (newDelivery off)))) n (.story t)) n := by
  rw [State.createDelivery, updStory_live hs]

end

/-! ### The supersede and the number index (R59, R60) -/

section
variable {s : State} {a : Admission} {t : Tag} {m : BitVec 16}

theorem supersede_none (h : a.hdr.replaced = none) : s.supersede a t = s := by
  simp only [State.supersede, h]

theorem supersede_matched (h : a.hdr.replaced = some m) (hk : (s.killNumber .supersede a.feed m).2 = true) :
    s.supersede a t = (s.killNumber .supersede a.feed m).1 := by
  simp only [State.supersede, h, if_pos hk]

theorem supersede_unmatched (h : a.hdr.replaced = some m) (hk : (s.killNumber .supersede a.feed m).2 = false) :
    s.supersede a t = s.post
      { kind := .supersedeUnmatched, feed := some a.feed, tag := some t, number := some m,
        valA := (optNumber a.hdr.number).setWidth 32 } := by
  rcases killNumber_false (s := s) (f := a.feed) (k := m) .supersede with hno | hyes
  · simp only [State.supersede, h, hno]
    rfl
  · simp [hk] at hyes

theorem duplicateOf_none (f : Feed)
    (h : ∀ u st, s.indexFind f m = some u → s.story u = some st → st.state = .killed ∨ st.state = .cut) :
    s.duplicateOf f m = none := by
  cases hu : s.indexFind f m with
  | none => simp only [State.duplicateOf, hu]
  | some u =>
    cases hs : s.story u with
    | none => simp only [State.duplicateOf, hu, hs]
    | some st =>
      have hdead : ¬(st.state = .open_ ∨ st.state = .closed) := by
        rcases h u st hu hs with hst | hst <;> simp [hst]
      simp only [State.duplicateOf, hu, hs, if_neg hdead]

theorem duplicateOf_some (f : Feed) {u : Tag} {st : Story} (hu : s.indexFind f m = some u) (hs : s.story u = some st)
    (hst : st.state = .open_ ∨ st.state = .closed) : s.duplicateOf f m = some u := by
  simp only [State.duplicateOf, hu, hs, if_pos hst]

theorem indexStory_none (h : a.hdr.number = none) : s.indexStory a t = s := by
  simp only [State.indexStory, h]

theorem indexStory_fresh (h : a.hdr.number = some m) (hd : s.duplicateOf a.feed m = none) :
    s.indexStory a t = s.indexSet a.feed m t := by
  simp only [State.indexStory, h, hd]

theorem indexStory_duplicate (h : a.hdr.number = some m) {u : Tag} (hd : s.duplicateOf a.feed m = some u) :
    s.indexStory a t = (s.indexSet a.feed m t).post
      { kind := .duplicateNumber, feed := some a.feed, tag := some t, number := some m, valA := BitVec.ofNat 32 u.1 } := by
  simp only [State.indexStory, h, hd]

/-- The number maps to the new story from now on, duplicate or not (R60). -/
theorem indexStory_index (h : a.hdr.number = some m) : (s.indexStory a t).index = (s.indexSet a.feed m t).index := by
  cases hd : s.duplicateOf a.feed m with
  | none => rw [indexStory_fresh h hd]
  | some u =>
    rw [indexStory_duplicate h hd]
    exact (post_told _).keeps State.index fun _ _ _ => rfl

theorem indexSet_eq (h : a.hdr.number = some m) :
    s.indexSet a.feed m t = { s with index := (s.indexStory a t).index } := by
  rw [indexStory_index h]
  rfl

theorem indexFind_indexStory (h : a.hdr.number = some m) (f : Feed) (k : BitVec 16) :
    (s.indexStory a t).indexFind f k = if f = a.feed ∧ k = m then some t else s.indexFind f k := by
  rw [State.indexFind, indexStory_index h]
  exact indexFind_indexSet f k

/-- Settles O35: the choice of the entry; the record with its account, then the route's deliveries; the supersede and the
index. -/
theorem admissionFillsAnEntry : Obligations.AdmissionFillsAnEntry := by
  refine ⟨fun s a => ⟨fun t hs h => admitStory_chosen (chooseEntry_free hs h), fun hfull => ⟨fun hno => ?_, ?_⟩⟩,
    fun s a t => ?_, fun s t st off n hs => createDelivery_eq off n hs,
    fun s a t => ⟨supersede_none, fun m h => ⟨supersede_matched h, supersede_unmatched h⟩, indexStory_none, fun m h =>
      ⟨indexFind_indexStory h, fun hdead => ?_, fun u st hu hs hst => ?_⟩⟩⟩
  · refine admitStory_refused ?_
    refine chooseEntry_refused hfull (List.find?_eq_none.2 fun t ht hv => ?_)
    obtain ⟨st, hs, hv⟩ := any_victim_iff.1 hv
    exact hno t ht st hs (victim_iff.1 hv)
  · intro l t q st hl hs hst hcls hsent hserv hno
    refine admitStory_chosen (chooseEntry_victim hfull (List.find?_eq_some_iff_append.2
      ⟨any_victim_iff.2 ⟨st, hs, victim_iff.2 ⟨hst, hcls, hsent, hserv⟩⟩, l, q, hl, fun u hu => ?_⟩))
    rw [Bool.not_eq_true', Bool.eq_false_iff]
    intro hv
    obtain ⟨x, hx, hv⟩ := any_victim_iff.1 hv
    exact hno u hu x hx (victim_iff.1 hv)
  · intro route e
    refine ⟨mem_routeList a.feed a.hdr.cls, routeList_sorted _ _, has_circSetOf route, rfl, ?_, fun u hu => ?_,
      enterStory_keeps State.admission fun _ _ _ _ _ => rfl, ?_, fun f hf => ?_,
      enterStory_keeps State.circuits fun _ _ _ _ _ => rfl, enterStory_keeps State.index fun _ _ _ _ _ => rfl,
      enterStory_keeps State.history fun _ _ _ _ _ => rfl, fun f => enterStory_acct_ne, fun hw => ?_, fun hw o ho => ?_⟩
    · exact (enterStory_story t).trans (if_pos rfl)
    · exact (enterStory_story u).trans (if_neg (Ne.symm hu))
    · exact (enterStory_flist a.feed).trans (vget_vset_same _ _ _)
    · exact (enterStory_flist f).trans (vget_vset_ne _ _ (Ne.symm hf))
    · have he : e = s.entered a t route := enterStory_eq.trans (recompute_disabled hw)
      rw [he]
      exact ⟨rfl, rfl⟩
    · refine ⟨(s.entered a t route).setAccount a.feed, ?_, ?_, ?_, ?_, enterStory_eq⟩
      · rw [setAccount_acct (s := s.entered a t route) hw, entered_accountOf ho]
        rfl
      · rw [setAccount_eq]
        rfl
      · rw [setAccount_eq]
        rfl
      · rw [setAccount_eq]
        exact entered_flist (route := route)
  · rw [indexStory_fresh h (duplicateOf_none a.feed hdead)]
    rfl
  · rw [← indexSet_eq h, indexStory_duplicate h (duplicateOf_some a.feed hu hs hst)]

end
end Sys2Proof.Machine
end

section
namespace Sys2Proof.Machine

/-! ### A story's place in a queue, by its class (R90, R107) -/

section
variable {s : State} {t : Tag} {st : Story} {n : Circ}

theorem insertNew_congr {u : State} (h : u.stories = s.stories) (i : Item) (l : List Item) :
    u.insertNew i l = s.insertNew i l := by
  have hrank : ∀ j, u.rank j = s.rank j := fun j => by simp only [State.rank, State.story, h]
  induction l with
  | nil => rfl
  | cons q l ih => simp only [State.insertNew, hrank, ih]

/-- A delivery placed anew leaves its queue first (R107). -/
theorem enqueueNew_dequeue (i : Item) : (s.dequeue n i).enqueueNew n i =
    s.updSch n fun c => { c with queue := s.insertNew i (c.queue.filter (· != i)) } := by
  have hplace : (s.dequeue n i).insertNew i = s.insertNew i :=
    funext (insertNew_congr (s := s) (u := s.dequeue n i) rfl i)
  rw [State.enqueueNew, hplace]
  simp only [State.dequeue, State.updSch, circ_setCirc_same, setCirc_setCirc]

theorem reclassOn_none (hs : s.story t = some st) (hd : st.delivery n = none) : State.reclassOn t s n = s := by
  simp only [State.reclassOn, hs, hd]

theorem reclassOn_past {d : Delivery} (hs : s.story t = some st) (hd : st.delivery n = some d)
    (h : d.state = .done ∨ d.state = .abandoned) : State.reclassOn t s n = s := by
  rcases h with h | h <;> simp only [State.reclassOn, hs, hd, h]

theorem reclassOn_serving {d : Delivery} (hs : s.story t = some st) (hd : st.delivery n = some d)
    (h : d.state = .inService) : State.reclassOn t s n = s.sched n := by
  simp only [State.reclassOn, hs, hd, h]

theorem reclassOn_queued {d : Delivery} (hs : s.story t = some st) (hd : st.delivery n = some d)
    (h : d.state = .waiting ∨ d.state = .preempted) : State.reclassOn t s n = State.sched (s.updSch n fun c =>
      { c with queue := s.insertNew (.story t) (c.queue.filter (· != Item.story t)) }) n := by
  rcases h with h | h <;> simp only [State.reclassOn, hs, hd, h, enqueueNew_dequeue]

theorem reclass_same (hs : s.story t = some st) : s.reclass t st.cls = s := by
  simp only [State.reclass, hs, if_true]

theorem reclass_live {c : StoryClass} (hs : s.story t = some st) (hl : st.state = .open_ ∨ st.state = .closed)
    (hc : c ≠ st.cls) :
    s.reclass t c = allCircs.foldl (State.reclassOn t) (s.setStory t (some { st with cls := c })) := by
  rcases hl with h | h <;> simp only [State.reclass, hs, if_neg (Ne.symm hc), h]

theorem reclass_withdrawn {c : StoryClass} (hs : s.story t = some st) (hw : st.state = .killed ∨ st.state = .cut)
    (hc : c ≠ st.cls) : s.reclass t c = s.setStory t (some { st with cls := c }) := by
  rcases hw with h | h <;> simp only [State.reclass, hs, if_neg (Ne.symm hc), h]

end

/-! ### Kills and cuts of withdrawn stories (R68, R70, R145) -/

section
variable {s : State} {t : Tag} {st : Story}

/-- A kill of a withdrawn story is told, and a spike is not (R70). -/
theorem killLive_withdrawn {src : KillSource} (hs : s.story t = some st) (hw : st.state = .killed ∨ st.state = .cut)
    (hsrc : src ≠ .overrun) :
    s.killLive src t = if src = .ring ∨ src = .victim then s else s.post (killReport src t st 0) := by
  cases src with
  | directive | request | supersede =>
    rw [if_neg (by decide)]
    rcases hw with h | h <;> simp only [State.killLive, hs, h]
  | ring | victim =>
    rw [if_pos (by decide)]
    rcases hw with h | h <;> simp only [State.killLive, hs, h]
  | overrun => exact absurd rfl hsrc

theorem killLive_cut_overrun (hs : s.story t = some st) (hc : st.state = .cut) : s.killLive .overrun t = s := by
  simp only [State.killLive, hs, hc]

theorem killLive_killed_overrun (hs : s.story t = some st) (hk : st.state = .killed) :
    s.killLive .overrun t = s.cutKilled t st := by
  simp only [State.killLive, hs, hk]

/-- A fetch in flight of the story in service on circuit n is marked to be discarded (R145). -/
def State.dropFetch (t : Tag) (s : State) (n : Circ) : State :=
  if s.serving t n then s.updFtc n fun x => x.discard .dropBack else s

/-- The cut of a KILLED story but for its report and its retirement test (R68). -/
def State.cutMark (s : State) (t : Tag) (st : Story) : State :=
  allCircs.foldl (State.dropFetch t) ((s.setStory t (some { st with state := .cut })).cutUnlink t st)

theorem cutKilled_eq : s.cutKilled t st = ((s.cutMark t st).post (killReport .overrun t st 0)).retireTest t := rfl

theorem dropFetch_circ_same (n : Circ) : (State.dropFetch t s n).circ n =
    if (s.circ n).sch.item = some (.story t)
      then { s.circ n with ftc := (s.circ n).ftc.discard .dropBack } else s.circ n := by
  simp only [State.dropFetch, serving_eq, beq_iff_eq]
  split
  · exact circ_updFtc_same s n _
  · rfl

theorem dropFetch_circ_ne {n m : Circ} (hm : m ≠ n) : (State.dropFetch t s m).circ n = s.circ n := by
  unfold State.dropFetch
  split
  · exact circ_updFtc_ne s hm _
  · rfl

/-- But for the fetches, a cut reaches the record, the feed's list and its account (R68). -/
theorem cutMark_eq : { s.cutMark t st with circuits := s.circuits } =
    (s.setStory t (some { st with state := .cut })).cutUnlink t st := by
  have hfold := foldl_keeps (op := State.dropFetch t) (key := fun u => { u with circuits := s.circuits })
    (P := fun _ => True) (s := (s.setStory t (some { st with state := .cut })).cutUnlink t st)
    (fun u n _ => by unfold State.dropFetch; split <;> rfl) allCircs trivial
  refine hfold.trans ?_
  rw [cutUnlink_eq]
  rfl

theorem cutMark_keeps {α : Type} (key : State → α) (hkey : ∀ (u : State) c, key { u with circuits := c } = key u) :
    key (s.cutMark t st) = key ((s.setStory t (some { st with state := .cut })).cutUnlink t st) := by
  rw [← cutMark_eq]
  exact (hkey _ _).symm

/-- A cut leaves every block but the table, the feed's list, its account and the circuits alone. -/
theorem cutMark_frame : ∃ v l a c, s.cutMark t st =
    { s with stories := v, feedLists := l, accounts := a, circuits := c } := by
  have hsplit : ∀ {u v : State} {c}, { u with circuits := c } = v → u = { v with circuits := u.circuits } := by
    rintro u v c rfl
    rfl
  have h := hsplit (cutMark_eq (s := s) (t := t) (st := st))
  rw [cutUnlink_eq] at h
  exact ⟨_, _, _, _, h⟩

theorem cutMark_circ (n : Circ) : (s.cutMark t st).circ n =
    if (s.circ n).sch.item = some (.story t)
      then { s.circ n with ftc := (s.circ n).ftc.discard .dropBack } else s.circ n := by
  have h := foldl_circs_at (s := (s.setStory t (some { st with state := .cut })).cutUnlink t st)
    (op := State.dropFetch t) (key := (State.circ · n))
    (F := fun c => if c.sch.item = some (.story t) then { c with ftc := c.ftc.discard .dropBack } else c)
    (fun _ => dropFetch_circ_same n) (fun _ _ => dropFetch_circ_ne) allCircs_nodup
  rw [if_pos (mem_allCircs n)] at h
  refine h.trans ?_
  rw [cutUnlink_eq]
  rfl

theorem accountOf_setAccount (f : Feed) : (s.setAccount f).accountOf f = s.accountOf f := by
  rw [setAccount_eq]
  rfl

/-- The account of the feed is what R77 gives for the list without the story (R68, R78). -/
theorem cutUnlink_acct (hw : (s.fcfg st.feed).win ≠ none) :
    (((s.cutUnlink t st).acct st.feed).release, ((s.cutUnlink t st).acct st.feed).occ) =
      (s.cutUnlink t st).accountOf st.feed := by
  have hw' : ((s.unlink st.feed t).fcfg st.feed).win ≠ none := by
    rw [unlink_eq]
    exact hw
  rw [State.cutUnlink, accountOf_setAccount, setAccount_acct hw']

theorem cutUnlink_acct_ne {f : Feed} (hf : f ≠ st.feed) : (s.cutUnlink t st).acct f = s.acct f :=
  (setAccount_acct_ne hf).trans (unlink_acct_ne hf)

/-- Settles O27: reclass and kill by the state the story is found in; State.cutMark is the cut before its report. -/
theorem withdrawnStories : Obligations.WithdrawnStories := by
  refine ⟨fun s t st hs => ⟨reclass_same hs, fun hl c => reclass_live hs hl, fun hw =>
      ⟨fun c => reclass_withdrawn hs hw, fun src => killLive_withdrawn hs hw, killLive_cut_overrun hs⟩, fun hk =>
      ⟨s.cutMark t st, ?_, ?_, fun u hu => ?_, ?_, fun f hf => ?_, fun hw => ?_, fun f hf => ?_, ?_⟩⟩,
    fun s t st n hs => ⟨reclassOn_none hs, fun d hd =>
      ⟨reclassOn_past hs hd, reclassOn_serving hs hd, reclassOn_queued hs hd⟩⟩⟩
  · rw [killLive_killed_overrun hs hk, cutKilled_eq, killReport, hk]
    rfl
  · rw [cutMark_keeps (State.story · t) fun _ _ => rfl, cutUnlink_eq]
    exact story_setStory_same s t _
  · rw [cutMark_keeps (State.story · u) fun _ _ => rfl, cutUnlink_eq]
    exact story_setStory_ne s (Ne.symm hu) _
  · rw [cutMark_keeps (State.flist · st.feed) fun _ _ => rfl, cutUnlink_eq]
    exact flist_setFlist_same s st.feed _
  · rw [cutMark_keeps (State.flist · f) fun _ _ => rfl, cutUnlink_eq]
    exact flist_setFlist_ne (s := s) hf _
  · rw [cutMark_keeps (State.acct · st.feed) fun _ _ => rfl, cutMark_keeps (State.accountOf · st.feed) fun _ _ => rfl]
    exact cutUnlink_acct hw
  · rw [cutMark_keeps (State.acct · f) fun _ _ => rfl]
    exact cutUnlink_acct_ne hf
  · obtain ⟨v, l, a, c, h⟩ := cutMark_frame (s := s) (t := t) (st := st)
    refine ⟨?_, ?_, ?_, ?_, ?_, ?_, ?_, ?_, cutMark_circ⟩ <;> rw [h]

end
end Sys2Proof.Machine
end

section
namespace Sys2Proof.Machine

/-! ### A character counted (R63, R128) -/

section
variable {s : State} {n : Circ} {c : SentChar} {t : Tag} {st : Story} {d : Delivery}

theorem setStory_setStory (x y : Option Story) : (s.setStory t x).setStory t y = s.setStory t y := by
  simp [State.setStory, vset]

theorem updDelivery_live (g : Delivery → Delivery) (hs : s.story t = some st) (hd : st.delivery n = some d) :
    s.updDelivery t n g = s.setStory t (some (st.setDelivery n (g d))) := by
  simp only [State.updDelivery, updStory_live hs, hd]

theorem joinSent_live (ho : c.owner = some t) (hs : s.story t = some st) : s.joinSent n c =
    s.setStory t (some { st with sent := if c.headText then st.sent.add n else st.sent }) := by
  simp only [State.joinSent, ho, updStory_live hs]
  split
  · rfl
  · exact (setStory_self hs).symm

/-- A completed character counts in its delivery, and may put the circuit in the sent set, before it completes anything
(R128). -/
theorem recordChar_live (ho : c.owner = some t) (hs : s.story t = some st) (hd : st.delivery n = some d) :
    s.recordChar n c = (s.setStory t (some { st.setDelivery n (countChar c.mark d) with
      sent := if c.headText then st.sent.add n else st.sent })).complete n c.mark := by
  simp only [State.recordChar, ho, updDelivery_live _ hs hd]
  rw [joinSent_live ho (story_setStory_same s t _), setStory_setStory]
  rfl

/-- SLOT_COMPLETE of a character in RUNNING (R134, R148, R152). -/
theorem exec_slotComplete_char {e : Nat} (hr : (s.circ n).lu.state = .running)
    (hs : (s.circ n).lu.slot = some { kind := .char c, elapsed := e }) :
    exec (.slotComplete n) s = .next (State.settleBus (
      let u := ((s.updLu n fun l => { l with slot := none }).recordChar n c).starveTell n
      if (u.circ n).lu.fltDet then u.enterFault n
      else if (u.circ n).lu.brkDet then u.enterBroken n
      else (u.settleLine n).nextSlotOrHold n)) := by
  have hdone : s.slotDone n = s.runSlotDone n (.char c) := by simp only [State.slotDone, hs, hr]
  exact congrArg (fun u : State => Host.Outcome.next u.settleBus) hdone

end

/-! ### The end of a delivery and of a stop (R104 to R106, R155, R156) -/

section
variable {s : State} {n : Circ} {t : Tag} {st : Story} {d : Delivery}

theorem tag_of_item (h : (s.circ n).sch.item = some (.story t)) : (s.circ n).sch.tag = some t := by
  simp only [Sched.tag, h]

theorem abandonOnly_live (hs : s.story t = some st) (hd : st.delivery n = some d) : s.abandonOnly t n =
    (s.setStory t (some (st.setDelivery n { d with state := .abandoned }))).post
      (deliveryReport .deliveryAbandoned t st n d.chars d.subs) := by
  simp only [State.abandonOnly, hs, hd]

theorem deliveryDone_live (hi : (s.circ n).sch.item = some (.story t)) (hs : s.story t = some st)
    (hd : st.delivery n = some d) : s.deliveryDone n =
      ((State.stopNotice ((s.setStory t (some (st.setDelivery n { d with state := .done }))).post
        (deliveryReport .deliveryDone t st n d.chars d.lines)) n t st (s.circ n).sch.stop).leaveService n).retireTest t := by
  simp only [State.deliveryDone, tag_of_item hi, hs, hd]

theorem endStop_live (hi : (s.circ n).sch.item = some (.story t)) :
    s.endStop n = ((s.abandonOnly t n).leaveService n).retireTest t := by
  simp only [State.endStop, tag_of_item hi]

theorem silentStop_live (hi : (s.circ n).sch.item = some (.story t)) (hs : s.story t = some st) :
    s.silentStop n = State.retireTest
      ((((s.abandonOnly t n).stopNotice n t st (s.circ n).sch.stop).leaveService n).updLu n fun l =>
        { l with capture := none }) t := by
  simp only [State.silentStop, tag_of_item hi, hs]

theorem stopLineOrEnd_line (hi : (s.circ n).sch.item = some (.story t)) (hs : s.story t = some st) {k : NoticeKind}
    (hk : (s.circ n).sch.stop = .kill k) (hsent : CircSet.has st.sent n = true) :
    s.stopLineOrEnd n = s.updSnd n fun x => { x with phase := .stopLine, svc := none, plan := [] } := by
  simp only [State.stopLineOrEnd, tag_of_item hi, hs, hk, if_pos hsent]

theorem stopLineOrEnd_end (hi : (s.circ n).sch.item = some (.story t)) (hs : s.story t = some st)
    (h : (s.circ n).sch.stop = .none ∨ (s.circ n).sch.stop = .clear ∨ CircSet.has st.sent n = false) :
    s.stopLineOrEnd n = s.endStop n := by
  simp only [State.stopLineOrEnd, tag_of_item hi, hs]
  split
  · rename_i k hst hk
    obtain rfl := Option.some.inj hst
    rw [if_neg]
    simpa [hk] using h
  · rfl

theorem nlNext_stopLine (h : (s.circ n).snd.phase = .stopLine) : s.nlNext n .svcLast = s.endStop n := by
  simp only [State.nlNext, State.svcDone, h]

end

/-! ### The stop place (R155) -/

section
variable {s : State} {n : Circ}

/-- The Sender and the Scheduler as the stop place leaves them: the held word and the pending spaces gone, a captured
service line's record to go at the next newline (R155). -/
def State.stopCleared (s : State) (n : Circ) : State :=
  ((s.updSnd n fun d => { d with
      held := [], pend := 0, plan := [], svc := none, inDirective := false, leave := none }).updSch n fun c =>
    { c with stopMet := false }).updLu n fun l => { l with capture := l.capture.map Capture.stopped }

theorem stopHere_eq : s.stopHere n = if (s.circ n).snd.column = 0 then (s.stopCleared n).stopLineOrEnd n
    else (s.stopCleared n).updSnd n fun d =>
      { d with phase := .stopNewline, stopBegun := true, plan := placeNewline (s.ccfg n).fill .stop } := by
  have hcol : ((s.stopCleared n).circ n).snd.column = (s.circ n).snd.column := by simp [State.stopCleared]
  rw [← hcol]
  rfl

theorem stopOpen_iff : s.stopOpen n = true ↔ (s.circ n).sch.stop ≠ .none ∧ (s.circ n).snd.replay = none ∧
    (s.circ n).snd.phase ≠ .stopNewline ∧ (s.circ n).snd.phase ≠ .stopLine := by
  simp [State.stopOpen, and_assoc]

theorem replayCheck_stopOpen (h : s.stopOpen n = true) : s.replayCheck n = s :=
  replayCheck_none (stopOpen_iff.1 h).2.1

theorem complete_wordEnd_stop (h : s.stopOpen n = true) : s.complete n .wordEnd = s.stopHere n := by
  simp only [State.complete, State.wordDone, replayCheck_stopOpen h, State.lostTest, State.wordTest, if_pos h, ite_self]

theorem stopOpen_newlineDone (k : NlCause) : (s.updSnd n fun x => x.newlineDone k).stopOpen n = s.stopOpen n := by
  simp [State.stopOpen, Sender.newlineDone]

theorem stopOpen_dropCapture (k : NlCause) : (s.dropCapture n k).stopOpen n = s.stopOpen n := by
  unfold State.dropCapture
  (repeat' split)
  · rfl
  · simp [State.stopOpen]
  · rfl

theorem complete_newline_stop {k : NlCause} (h : s.stopOpen n = true) (hk : ∀ u : State, u.nlNext n k = u) :
    s.complete n (.newline k) = ((s.updSnd n fun x => x.newlineDone k).dropCapture n k).stopHere n := by
  have hopen : (s.updSnd n fun x => x.newlineDone k).stopOpen n = true := by rw [stopOpen_newlineDone, h]
  simp only [State.complete, replayCheck_stopOpen hopen, hk, State.lineTest, stopOpen_dropCapture, if_pos hopen]

theorem actAtOnce_held (hl : (s.circ n).lu.state = .held) (hst : (s.circ n).sch.stop ≠ .none)
    (hr : (s.circ n).snd.replay = none) (hb : (s.circ n).snd.stopBegun = false) :
    s.actAtOnce n = (s.silentStop n).dropPend n := by
  have hheld : s.stopHeld n = true := by simp [State.stopHeld, hl, hst, hr, hb]
  rw [State.actAtOnce, if_pos hheld]

theorem leaveService_circ : (s.leaveService n).circ n = { s.circ n with
    sch := { (s.circ n).sch with item := none, stop := .none, stopMet := false }
    snd := { (s.circ n).snd with
      phase := .opening, plan := [], svc := none, held := [], inDirective := false, stopBegun := false, leave := none
      replay := none }
    ftc := Fetcher.discard { (s.circ n).ftc with look := [] } .dropStale } := by
  simp [State.leaveService]

theorem discard_stale_look (x : Fetcher) : (Fetcher.discard { x with look := [] } .dropStale).look = [] := by
  unfold Fetcher.discard
  split <;> rfl

theorem discard_stale_fetch {x : Fetcher} {f : Fetch} (h : x.fetch = some f) :
    (Fetcher.discard { x with look := [] } .dropStale).fetch = some { f with fate := .dropStale } := by
  simp only [Fetcher.discard, h, ite_self]

/-- Settles O48: a character counted, the ends of a delivery and of a stop by their stages, the stop place, and what leaves
service. -/
theorem characterIsCounted : Obligations.CharacterIsCounted := by
  refine ⟨fun s n c t st d ho hs hd => ⟨fun hm => ?_, ?_⟩, fun s n c e hr hslot => ?_, fun s n t st d hi hs hd => ?_,
    fun s n => ?_, fun s n k x => ?_⟩
  · rw [recordChar_live ho hs hd, hm]
    exact ⟨⟨_, story_setStory_same s t _, (delivery_setDelivery _ _ _ _).trans (if_pos rfl), rfl, rfl⟩,
      fun u hu => story_setStory_ne s (Ne.symm hu) _⟩
  · refine (recordChar_live ho hs hd).trans ?_
    cases c.mark <;> rfl
  · exact exec_slotComplete_char hr hslot
  · intro noticed doneRep goneRep gone
    have hnotice : ∀ u : State, u.stopNotice n t st (s.circ n).sch.stop = noticed u := fun u => by
      simp only [State.stopNotice, noticed]
      cases (s.circ n).sch.stop <;> rfl
    have hgone : s.abandonOnly t n = gone := abandonOnly_live hs hd
    refine ⟨?_, ?_, ?_, fun k => stopLineOrEnd_line hi hs, stopLineOrEnd_end hi hs, nlNext_stopLine, rfl⟩
    · exact (deliveryDone_live hi hs hd).trans (by rw [hnotice]; rfl)
    · rw [endStop_live hi, hgone]
    · rw [silentStop_live hi hs, hgone, hnotice]
  · refine ⟨fun hc => stopHere_eq.trans (if_pos hc), fun hc => stopHere_eq.trans (if_neg hc), stopOpen_iff, fun ho =>
      ⟨complete_wordEnd_stop ho, fun k hk => complete_newline_stop ho fun u => ?_⟩, actAtOnce_held⟩
    rcases hk with rfl | rfl | rfl | rfl <;> rfl
  · have honly : s.OnlyCirc (s.leaveService n) n := by
      rw [State.OnlyCirc, leaveService_circ]
      simp [State.leaveService, State.updFtc, State.updSnd, State.updSch]
    rw [leaveService_circ]
    exact ⟨rfl, rfl, discard_stale_look _, rfl, rfl, honly, fun f => discard_stale_fetch, noticeHere_full n,
      fun i => noticeHere_free n⟩

end
end Sys2Proof.Machine
end

section
namespace Sys2Proof.Machine

/-! ### The account of a feed (R77) -/

section
variable {s : State} {f : Feed} {t : Tag} {st : Story}

theorem accountOf_empty (h : s.flist f = []) : s.accountOf f = ((s.ctx f).cursor, 0) := by
  simp only [State.accountOf, h]

theorem accountOf_head {l : List Tag} (hl : s.flist f = t :: l) (hs : s.story t = some st) : s.accountOf f =
    (st.openOff, if ringDist (s.fsize f) st.openOff (s.ctx f).cursor = 0 then s.fsize f
      else ringDist (s.fsize f) st.openOff (s.ctx f).cursor) := by
  simp only [State.accountOf, hl, hs]

theorem win_ne_none_of_fsize_pos (h : 0 < s.fsize f) : (s.fcfg f).win ≠ none := by
  intro hw
  simp only [State.fsize, hw, Nat.lt_irrefl] at h

theorem ringDist_lt {size : Nat} (a b : Nat) (h : 0 < size) : ringDist size a b < size := Nat.mod_lt _ h

/-- The distance of a ring leads from the first offset forward to the second. -/
theorem add_ringDist_mod {size a b : Nat} (ha : a < size) (hb : b < size) : (a + ringDist size a b) % size = b :=
  calc (a + (b + size - a) % size) % size
    _ = (a + (b + size - a)) % size := Nat.add_mod_mod _ _ _
    _ = (b + size) % size := by rw [Nat.add_sub_of_le (by omega)]
    _ = b := by rw [Nat.add_mod_right, Nat.mod_eq_of_lt hb]

/-- An occupancy counts the distance 0 of a list with a story in it as the whole window (R77). -/
theorem add_fullDist_mod {size a b : Nat} (ha : a < size) (hb : b < size) :
    (a + if ringDist size a b = 0 then size else ringDist size a b) % size = b := by
  split
  · next h0 =>
    have hlead := add_ringDist_mod ha hb
    rwa [h0, Nat.add_zero, ← Nat.add_mod_right] at hlead
  · exact add_ringDist_mod ha hb

/-- Settles O38: the account set is that of State.accountOf, which the list's head and the cursor give. -/
theorem accountFollowsTheHead : Obligations.AccountFollowsTheHead := by
  intro s f hsize hcur
  refine ⟨setAccount_acct (win_ne_none_of_fsize_pos hsize), fun g => setAccount_acct_ne, accountOf_empty,
    fun t l st hl hs hoff => ?_⟩
  have hdist := ringDist_lt st.openOff (s.ctx f).cursor hsize
  rw [accountOf_head hl hs]
  refine ⟨rfl, ?_, ?_, add_fullDist_mod hoff hcur⟩
  all_goals
    dsimp only
    split <;> omega

end

/-! ### The levels of a feed (R76) -/

section
variable {s : State} {f : Feed} {w : Win} {u : Nat}

/-- A window size is a whole number of sixteenths (R4). -/
theorem feedSize_sixteenths (code : Nat) : ∃ u, 0 < u ∧ feedSize code = 16 * u := by
  have hdvd : 16 ∣ feedSize code ∧ 0 < feedSize code := by
    unfold feedSize
    split <;> decide
  obtain ⟨⟨u, hu⟩, hpos⟩ := hdvd
  exact ⟨u, by omega, hu⟩

theorem fsize_sixteenths (hw : (s.fcfg f).win = some w) : ∃ u, 0 < u ∧ s.fsize f = 16 * u := by
  have hsize : s.fsize f = feedSize w.code := by simp only [State.fsize, hw, Win.feedSize]
  rw [hsize]
  exact feedSize_sixteenths w.code

theorem sixteenths_div (u k : Nat) : 16 * u * k / 16 = u * k := by
  rw [Nat.mul_assoc, Nat.mul_div_cancel_left _ (by decide)]

theorem warnLevel_sixteenths (hu : s.fsize f = 16 * u) : s.warnLevel f = u * (s.fcfg f).w16 := by
  rw [State.warnLevel, hu, sixteenths_div]

theorem lowLevel_sixteenths (hu : s.fsize f = 16 * u) : s.lowLevel f = u * ((s.fcfg f).w16 - 2) := by
  rw [State.lowLevel, hu, sixteenths_div]
  split
  · rfl
  · next h => rw [Nat.sub_eq_zero_of_le (by omega), Nat.mul_zero]

theorem spikeLevel_eq_none_iff (hw : (s.fcfg f).win = some w) : s.spikeLevel f = none ↔ (s.fcfg f).k16 = 0 := by
  simp [State.spikeLevel, hw]

theorem spikeLevel_sixteenths {l : Nat} (hu : s.fsize f = 16 * u) (hl : s.spikeLevel f = some l) :
    (s.fcfg f).k16 ≠ 0 ∧ l = u * (s.fcfg f).k16 := by
  rw [State.spikeLevel, hu, sixteenths_div] at hl
  split at hl
  · cases hl
  · next h => exact ⟨fun hk => h (.inl hk), (Option.some.inj hl).symm⟩

theorem clampW16_bounds (b : Byte) : 0 < clampW16 b ∧ clampW16 b ≤ 15 := by
  unfold clampW16
  split <;> omega

theorem clampK16_eq_zero_iff (w16 : Nat) (b : Byte) : clampK16 w16 b = 0 ↔ b.toNat = 0 := by
  unfold clampK16
  (repeat' split) <;> omega

/-- K16 is raised to W16, so the spike level is not below the warn level (R76). -/
theorem clampK16_bounds {w16 : Nat} {b : Byte} (hw : w16 ≤ 15) (hk : clampK16 w16 b ≠ 0) :
    w16 ≤ clampK16 w16 b ∧ clampK16 w16 b ≤ 15 := by
  rw [Ne, clampK16_eq_zero_iff] at hk
  rw [clampK16, if_neg hk]
  split <;> omega

/-- Settles O40: each level is a multiple of the sixteenth part of the window, and the clamps order the multipliers. -/
theorem levelsAreOrdered : Obligations.LevelsAreOrdered := by
  intro s f m w hwin hw16 hk16
  obtain ⟨u, hpos, hu⟩ := fsize_sixteenths hwin
  obtain ⟨hw1, hw15⟩ := clampW16_bounds (staged8 m (0x47 + 16 * f.1))
  have hwv : (s.fcfg f).w16 = clampW16 (staged8 m (0x47 + 16 * f.1)) := hw16
  have hkv : (s.fcfg f).k16 = clampK16 (s.fcfg f).w16 (staged8 m (0x48 + 16 * f.1)) := by
    rw [hk16, hw16]
    rfl
  rw [← hwv] at hw1 hw15
  rw [warnLevel_sixteenths hu, lowLevel_sixteenths hu, hu, spikeLevel_eq_none_iff hwin, hkv]
  refine ⟨(Nat.mul_assoc _ _ _).symm, Nat.mul_lt_mul_of_pos_left (by omega) hpos, (Nat.mul_assoc _ _ _).symm,
    fun l hl => ?_, clampK16_eq_zero_iff _ _⟩
  obtain ⟨hk, rfl⟩ := spikeLevel_sixteenths hu hl
  rw [hkv] at hk ⊢
  obtain ⟨hlow, hhigh⟩ := clampK16_bounds hw15 hk
  refine ⟨(Nat.mul_assoc _ _ _).symm, Nat.mul_le_mul_left u hlow, ?_⟩
  rw [Nat.mul_comm 16 u]
  exact Nat.mul_le_mul_left u (by omega)

end

/-! ### The warning test (R80) -/

section
variable {s : State} {f : Feed}

theorem post_acct (r : Report) : (s.post r).acct f = s.acct f :=
  (post_told r).keeps (State.acct · f) fun _ _ _ => rfl

theorem warnTest_below (hw : (s.acct f).warn = false) (h : (s.acct f).occ < s.warnLevel f) : s.warnTest f = s := by
  simp only [State.warnTest, hw, Bool.false_eq_true, if_false, if_neg (Nat.not_le.2 h)]

theorem warnTest_above (hw : (s.acct f).warn = true) (h : s.lowLevel f < (s.acct f).occ) : s.warnTest f = s := by
  simp only [State.warnTest, hw, if_true, if_neg (Nat.not_le.2 h)]

theorem warnTest_high (hw : (s.acct f).warn = false) (h : s.warnLevel f ≤ (s.acct f).occ) : s.warnTest f =
    (s.setAcct f { s.acct f with warn := true }).post (s.levelReport .feedHigh f) := by
  simp only [State.warnTest, hw, Bool.false_eq_true, if_false, if_pos h]

theorem warnTest_low (hw : (s.acct f).warn = true) (h : (s.acct f).occ ≤ s.lowLevel f) : s.warnTest f =
    (s.setAcct f { s.acct f with warn := false }).post (s.levelReport .feedLow f) := by
  simp only [State.warnTest, hw, if_true, if_pos h]

/-- An account set before a report is in force after it, and the Report Writer does not read it (R158, R159). -/
theorem setAcct_post (a : Account) (r : Report) :
    ((s.setAcct f a).post r).acct f = a ∧ ((s.setAcct f a).post r).writer = (s.post r).writer :=
  ⟨(post_acct r).trans (acct_setAcct_same s f a), post_writer_congr (s := s) (u := s.setAcct f a) rfl rfl r⟩

/-- Settles O39: the four rows of the warning test; a row that posts is its account set, then its report. -/
theorem warningHysteresis : Obligations.WarningHysteresis := by
  intro s f
  refine ⟨warnTest_below, warnTest_above, fun hw h => ?_, fun hw h => ?_⟩
  · rw [warnTest_high hw h]
    exact setAcct_post _ _
  · rw [warnTest_low hw h]
    exact setAcct_post _ _

end
end Sys2Proof.Machine
end

section
namespace Sys2Proof.Machine

/-! ### Places in a ranked queue (R89, R90) -/

section
variable {s : State} {i : Item}

/-- A place between the items that may stand before an item and those that may stand behind it keeps a queue ranked
(R89). -/
theorem ranked_insert {a b : List Item} (h : s.Ranked (a ++ b)) (ha : ∀ x ∈ a, s.rank x ≤ s.rank i)
    (hb : ∀ x ∈ b, s.rank i ≤ s.rank x) : s.Ranked (a ++ i :: b) := by
  obtain ⟨hfront, hrear, hcross⟩ := List.pairwise_append.1 h
  refine List.pairwise_append.2 ⟨hfront, List.pairwise_cons.2 ⟨hb, hrear⟩, fun x hx => ?_⟩
  exact List.forall_mem_cons.2 ⟨ha x hx, hcross x hx⟩

/-- In a list where what stands behind an item that i goes before is such an item too, i is placed between those it does
not go before and those it does. -/
theorem orderedInsert_split {r : Item → Item → Prop} [DecidableRel r] {q : List Item}
    (h : q.Pairwise fun x y => r i x → r i y) : ∃ a b, q = a ++ b ∧ q.orderedInsert r i = a ++ i :: b ∧
      (∀ x ∈ a, ¬ r i x) ∧ ∀ x ∈ b, r i x := by
  induction q with
  | nil => exact ⟨[], [], rfl, rfl, by simp, by simp⟩
  | cons y q ih =>
    obtain ⟨hy, hq⟩ := List.pairwise_cons.1 h
    by_cases hr : r i y
    · exact ⟨[], y :: q, rfl, if_pos hr, by simp, List.forall_mem_cons.2 ⟨hr, fun x hx => hy x hx hr⟩⟩
    · obtain ⟨a, b, rfl, hins, ha, hb⟩ := ih hq
      exact ⟨y :: a, b, rfl, (if_neg hr).trans (by rw [hins]; rfl), List.forall_mem_cons.2 ⟨hr, ha⟩, hb⟩

theorem insertNew_eq (q : List Item) : s.insertNew i q = q.orderedInsert (fun x y => s.rank x < s.rank y) i := by
  induction q with
  | nil => rfl
  | cons y q ih => rw [State.insertNew, List.orderedInsert_cons, ih]

theorem insertBack_eq (q : List Item) : s.insertBack i q = q.orderedInsert (fun x y => s.rank x ≤ s.rank y) i := by
  induction q with
  | nil => rfl
  | cons y q ih => rw [State.insertBack, List.orderedInsert_cons, ih]

theorem mem_insertBack {q : List Item} {x : Item} : x ∈ s.insertBack i q ↔ x = i ∨ x ∈ q := by
  rw [insertBack_eq, List.mem_orderedInsert]

/-- A new item's place: behind every item of its rank or a better one (R90). -/
theorem insertNew_split {q : List Item} (h : s.Ranked q) : ∃ a b, q = a ++ b ∧ s.insertNew i q = a ++ i :: b ∧
    (∀ x ∈ a, s.rank x ≤ s.rank i) ∧ ∀ x ∈ b, s.rank i < s.rank x := by
  obtain ⟨a, b, hq, hins, ha, hb⟩ :=
    orderedInsert_split (i := i) (r := fun x y => s.rank x < s.rank y) (h.imp fun hxy hi => hi.trans_le hxy)
  exact ⟨a, b, hq, (insertNew_eq q).trans hins, fun x hx => Nat.le_of_not_lt (ha x hx), hb⟩

/-- A returned item's place: before every item of its rank or a worse one (R90). -/
theorem insertBack_split {q : List Item} (h : s.Ranked q) : ∃ a b, q = a ++ b ∧ s.insertBack i q = a ++ i :: b ∧
    (∀ x ∈ a, s.rank x < s.rank i) ∧ ∀ x ∈ b, s.rank i ≤ s.rank x := by
  obtain ⟨a, b, hq, hins, ha, hb⟩ :=
    orderedInsert_split (i := i) (r := fun x y => s.rank x ≤ s.rank y) (h.imp fun hxy hi => hi.trans hxy)
  exact ⟨a, b, hq, (insertBack_eq q).trans hins, fun x hx => Nat.lt_of_not_le (ha x hx), hb⟩

end

/-- Settles O41: the place of a new item and of a returned one, each of which keeps the queue ranked. -/
theorem queuePlaces : Obligations.QueuePlaces := by
  intro s i q h
  have hnew := insertNew_split (i := i) h
  have hback := insertBack_split (i := i) h
  refine ⟨?_, ?_, hnew, hback⟩
  · obtain ⟨a, b, rfl, hins, ha, hb⟩ := hnew
    rw [hins]
    exact ranked_insert h ha fun x hx => (hb x hx).le
  · obtain ⟨a, b, rfl, hins, ha, hb⟩ := hback
    rw [hins]
    exact ranked_insert h (fun x hx => (ha x hx).le) hb

end Sys2Proof.Machine
end

section
namespace Sys2Proof.Machine

/-! ### Settling a circuit by its stages (R91, R95) -/

section
variable {s : State} {n : Circ}

/-- What settling does behind a stop, a preemption or a put-aside reached at once: selection, the preemption point anew,
the idle timer and the next fetch (R91, R95, R137, R144). -/
def State.settleAfter (s : State) (n : Circ) : State := (((s.select n).setPoint n).setIdle n).fetchTry n

theorem settleLine_eq : s.settleLine n = ((s.setPoint n).actAtOnce n).settleAfter n := rfl

theorem fetchTry_eq : s.fetchTry n = s.updFtc n fun _ => ((s.fetchTry n).circ n).ftc := by
  unfold State.fetchTry
  split
  · exact (setCirc_self n).symm
  · simp only [circ_updFtc_same]
    rfl

/-- Behind the selection settling writes the circuit's preemption point, idle timer and fetcher, and nothing else. -/
theorem settleAfter_frame : ∃ i f, s.settleAfter n = (s.select n).setCirc n { (s.select n).circ n with
    lu := { ((s.select n).circ n).lu with idle := i }
    sch := { ((s.select n).circ n).sch with point := (s.select n).pointOf n }
    ftc := f } := by
  rw [State.settleAfter, fetchTry_eq]
  generalize ((((((s.select n).setPoint n).setIdle n).fetchTry n).circ n).ftc) = f
  refine ⟨((((s.select n).setPoint n).setIdle n).circ n).lu.idle, f, ?_⟩
  simp only [State.setIdle, State.setPoint, State.updFtc, State.updLu, State.updSch, circ_setCirc_same, setCirc_setCirc]

theorem settleAfter_stories : (s.settleAfter n).stories = (s.select n).stories := by
  obtain ⟨i, f, h⟩ := settleAfter_frame (s := s) (n := n)
  rw [h, setCirc_stories]

theorem settleAfter_snd : ((s.settleAfter n).circ n).snd = ((s.select n).circ n).snd := by
  obtain ⟨i, f, h⟩ := settleAfter_frame (s := s) (n := n)
  rw [h, circ_setCirc_same]

theorem settleAfter_sch : ((s.settleAfter n).circ n).sch =
    { ((s.select n).circ n).sch with point := (s.select n).pointOf n } := by
  obtain ⟨i, f, h⟩ := settleAfter_frame (s := s) (n := n)
  rw [h, circ_setCirc_same]

/-- Without a free, ready circuit and items queued nothing is selected (R91). -/
theorem select_unready (h : (s.circ n).sch.item ≠ none ∨ (s.circ n).lu.state ≠ .running ∨ (s.circ n).lu.hold = true ∨
    (s.circ n).sch.queue = []) : s.select n = s := by
  unfold State.select
  split
  · rename_i hready
    simp only [State.ready, Bool.and_eq_true, Option.isNone_iff_eq_none, beq_iff_eq, Bool.not_eq_true'] at hready
    obtain ⟨hitem, hrun, hhold⟩ := hready
    have hempty : (s.circ n).sch.queue = [] := by simpa [hitem, hrun, hhold] using h
    simp only [hempty, State.pick]
  · rfl

/-- With no stop order, what is reached at once is a preemption or a put-aside (R96, R99). -/
theorem actAtOnce_unstopped (hs : (s.circ n).sch.stop = .none) :
    s.actAtOnce n = (s.leavesAtOnce n).elim s (s.beginLeave n) := by
  have hheld : s.stopHeld n = false := by simp [State.stopHeld, hs]
  have hrun : s.stopAtOnce n = false := by simp [State.stopAtOnce, hs]
  simp only [State.actAtOnce, hheld, hrun, Bool.false_eq_true, if_false]
  cases s.leavesAtOnce n <;> rfl

/-- With no item and no stop order nothing is reached at once (R96, R99, R155). -/
theorem actAtOnce_free (hi : (s.circ n).sch.item = none) (hs : (s.circ n).sch.stop = .none) : s.actAtOnce n = s := by
  have hwait : s.waitingCopy n = false := by simp [State.waitingCopy, Sched.tag, hi]
  simp [actAtOnce_unstopped hs, State.leavesAtOnce, State.mayLeave, hwait]

end

/-! ### What a circuit's queue is read with -/

section
variable {s u : State} {n : Circ}

theorem rank_congr (h : u.stories = s.stories) (i : Item) : u.rank i = s.rank i := by
  simp only [State.rank, State.story, h]

theorem dryOn_congr (h : u.stories = s.stories) (i : Item) : u.dryOn n i = s.dryOn n i := by
  simp only [State.dryOn, State.story, h]

theorem bestRank_congr (h : u.stories = s.stories) (k : Nat) (q : List Item) : u.bestRank n k q = s.bestRank n k q := by
  induction q with
  | nil => rfl
  | cons i q ih => simp only [State.bestRank, dryOn_congr h, rank_congr h, ih]

theorem pointOf_congr (h : u.stories = s.stories) (hi : (u.circ n).sch.item = (s.circ n).sch.item)
    (hs : (u.circ n).sch.stop = (s.circ n).sch.stop) (hq : (u.circ n).sch.queue = (s.circ n).sch.queue) :
    u.pointOf n = s.pointOf n := by
  simp only [State.pointOf, hi, hs, hq, State.story, h, bestRank_congr h]

theorem waitingCopy_congr (h : u.stories = s.stories) (ha : u.applied = s.applied)
    (hi : (u.circ n).sch.item = (s.circ n).sch.item) (hsnd : (u.circ n).snd = (s.circ n).snd)
    (hlu : (u.circ n).lu = (s.circ n).lu) : u.waitingCopy n = s.waitingCopy n := by
  simp only [State.waitingCopy, Sched.tag, hi, State.story, h, hsnd, hlu, State.ccfg, ha]

theorem hasFresh_iff : s.hasFresh n = true ↔ ∃ i ∈ (s.circ n).sch.queue, s.dryOn n i = false := by
  simp [State.hasFresh]

end

/-! ### The preemption point (R94, R95) -/

section
variable {s : State} {n : Circ} {t : Tag} {st : Story}

/-- An item that is not dry and has rank k, below c, waits in the queue. -/
def State.Better (s : State) (n : Circ) (q : List Item) (c k : Nat) : Prop :=
  ∃ i ∈ q, s.dryOn n i = false ∧ s.rank i = k ∧ k < c

theorem bestRank_lt_iff (c j : Nat) (q : List Item) :
    s.bestRank n c q < j ↔ c < j ∨ ∃ i ∈ q, s.dryOn n i = false ∧ s.rank i < j := by
  induction q with
  | nil => simp [State.bestRank]
  | cons i q ih =>
    rw [State.bestRank]
    split
    · rename_i hdry
      simp [ih, hdry]
    · rename_i hdry
      simp only [min_lt_iff, ih, List.mem_cons, exists_eq_or_imp, Bool.eq_false_iff.2 hdry, true_and, or_left_comm]

theorem bestRank_lt_min_iff (c j : Nat) (q : List Item) : s.bestRank n c q < min j c ↔ ∃ k < j, s.Better n q c k := by
  rw [bestRank_lt_iff]
  constructor
  · rintro (h | ⟨i, hi, hdry, hrank⟩)
    · omega
    · exact ⟨s.rank i, by omega, i, hi, hdry, rfl, by omega⟩
  · rintro ⟨k, hk, i, hi, hdry, hrank, hc⟩
    exact .inr ⟨i, hi, hdry, by omega⟩

/-- The best rank below class c is the first one at which an item waits. -/
theorem bestRank_eq_iff (c k : Nat) (q : List Item) :
    s.bestRank n c q = k ∧ k < c ↔ s.Better n q c k ∧ ∀ j < k, ¬ s.Better n q c j := by
  have hbelow := bestRank_lt_min_iff (s := s) (n := n) c k q
  have hat := bestRank_lt_min_iff (s := s) (n := n) c (k + 1) q
  constructor
  · rintro ⟨hbest, hc⟩
    have hnone : ∀ j < k, ¬ s.Better n q c j := fun j hj h => by
      have := hbelow.2 ⟨j, hj, h⟩
      omega
    obtain ⟨j, hj, h⟩ := hat.1 (by omega)
    obtain rfl : j = k := by
      by_contra hne
      exact hnone j (by omega) h
    exact ⟨h, hnone⟩
  · rintro ⟨h, hnone⟩
    have hle := hat.2 ⟨k, Nat.lt_succ_self k, h⟩
    have hge : ¬ s.bestRank n c q < min k c := fun hlt => by
      obtain ⟨j, hj, hb⟩ := hbelow.1 hlt
      exact hnone j hj hb
    omega

theorem pointOfRank_iff (c b : Nat) : (pointOfRank c b = .wordBoundary ↔ b = 0 ∧ 0 < c) ∧
    (pointOfRank c b = .lineEnd ↔ b = 1 ∧ 1 < c) ∧ (pointOfRank c b = .takeOrEnd ↔ b = 2 ∧ 2 < c) ∧
    (pointOfRank c b = .none ↔ ¬ b < min 3 c) := by
  unfold pointOfRank
  split
  · rename_i hlt
    match b, hlt with
    | 0, hlt => simp [hlt]
    | 1, hlt => simp [hlt]
    | 2, hlt => simp [hlt]
    | b + 3, _ => simp
  · simp
    omega

theorem pointOf_story (hi : (s.circ n).sch.item = some (.story t)) (hs : s.story t = some st)
    (hstop : (s.circ n).sch.stop = .none) :
    s.pointOf n = pointOfRank st.cls.1 (s.bestRank n st.cls.1 (s.circ n).sch.queue) := by
  simp only [State.pointOf, hi, hstop, hs]

/-- The rows of R94. -/
theorem pointOf_iff (hi : (s.circ n).sch.item = some (.story t)) (hs : s.story t = some st)
    (hstop : (s.circ n).sch.stop = .none) :
    let better := s.Better n (s.circ n).sch.queue st.cls.1
    (s.pointOf n = .wordBoundary ↔ better 0) ∧ (s.pointOf n = .lineEnd ↔ better 1 ∧ ¬ better 0) ∧
    (s.pointOf n = .takeOrEnd ↔ better 2 ∧ ¬ better 1 ∧ ¬ better 0) ∧
    (s.pointOf n = .none ↔ ¬ better 2 ∧ ¬ better 1 ∧ ¬ better 0) := by
  intro better
  rw [pointOf_story hi hs hstop]
  obtain ⟨hword, hline, htake, hnone⟩ :=
    pointOfRank_iff st.cls.1 (s.bestRank n st.cls.1 (s.circ n).sch.queue)
  rw [hword, hline, htake, hnone, bestRank_eq_iff, bestRank_eq_iff, bestRank_eq_iff, bestRank_lt_min_iff]
  refine ⟨by simp [better], by simp [better], ?_, ?_⟩
  · simp only [Nat.forall_lt_succ_right, Nat.not_lt_zero, false_imp_iff, implies_true, true_and, better, and_comm]
  · simp only [Nat.exists_lt_succ_right, Nat.not_lt_zero, false_and, exists_false, false_or, not_or, better, and_comm]

theorem pointOf_none (h : (s.circ n).sch.stop ≠ .none ∨ (s.circ n).sch.item = none ∨
    ∃ i, (s.circ n).sch.item = some (.notice i)) : s.pointOf n = .none := by
  simp only [State.pointOf]
  split
  · rename_i hitem hstop
    simp [hitem, hstop] at h
  · rfl

theorem setPoint_point : ((s.setPoint n).circ n).sch.point = s.pointOf n := by simp [State.setPoint]

theorem settleLine_point : ((s.settleLine n).circ n).sch.point = (s.settleLine n).pointOf n := by
  rw [settleLine_eq, settleAfter_sch]
  exact (pointOf_congr settleAfter_stories (by rw [settleAfter_sch]) (by rw [settleAfter_sch])
    (by rw [settleAfter_sch])).symm

end

/-! ### Where the preemption point is reached (R96) -/

section
variable {s : State} {n : Circ} {k : NlCause} {t : Tag} {st : Story}

theorem leaveOpen_iff : s.leaveOpen n = true ↔ (s.circ n).sch.item ≠ none ∧ (s.circ n).sch.stop = .none ∧
    (s.circ n).snd.replay = none ∧ (s.circ n).snd.phase = .text := by
  simp [State.leaveOpen, Option.isSome_iff_ne_none, and_assoc]

theorem stopOpen_unstopped (h : (s.circ n).sch.stop = .none) : s.stopOpen n = false := by simp [State.stopOpen, h]

theorem wordTest_leaveOpen (h : s.leaveOpen n = true) (hl : (s.circ n).snd.leave = none) : s.wordTest n =
    if (s.circ n).sch.point = .wordBoundary then s.beginLeave n .preempt else s := by
  obtain ⟨-, hstop, -, -⟩ := leaveOpen_iff.1 h
  simp only [State.wordTest, stopOpen_unstopped hstop, Bool.false_eq_true, if_false, if_pos h, hl]

theorem lineTest_leaveOpen (h : s.leaveOpen n = true) (hl : (s.circ n).snd.leave = none) : s.lineTest n k =
    if (s.circ n).sch.point.reachedAt k then s.beginLeave n .preempt else s := by
  obtain ⟨-, hstop, -, -⟩ := leaveOpen_iff.1 h
  simp only [State.lineTest, stopOpen_unstopped hstop, Bool.false_eq_true, if_false, if_pos h, hl]

theorem reachedAt_textNewline (p : Point) (hk : k = .fold ∨ k = .hard ∨ k = .take) :
    p.reachedAt k = true ↔ p = .wordBoundary ∨ p = .lineEnd ∨ p = .takeOrEnd ∧ k = .take := by
  rcases hk with rfl | rfl | rfl <;> cases p <;> decide

theorem reachedAt_hold (p : Point) : p.reachedAt .hold = true ↔ p = .wordBoundary := by cases p <;> decide

theorem reachedAt_svcLast (p : Point) : p.reachedAt .svcLast = true ↔ p = .wordBoundary ∨ p = .lineEnd := by
  cases p <;> decide

/-- A newline's completion before what follows it by its cause (R114, R150, R151). -/
def State.newlineEnded (s : State) (n : Circ) (k : NlCause) : State :=
  (s.updSnd n fun x => x.newlineDone k).dropCapture n k

theorem dropCapture_circ : ∃ l, (s.dropCapture n k).circ n = { s.circ n with lu := l } := by
  unfold State.dropCapture
  (repeat' split)
  · exact ⟨_, rfl⟩
  · exact ⟨_, circ_updLu_same s n _⟩
  · exact ⟨_, rfl⟩

theorem newlineEnded_sch : ((s.newlineEnded n k).circ n).sch = (s.circ n).sch := by
  obtain ⟨l, h⟩ := dropCapture_circ (s := s.updSnd n fun x => x.newlineDone k) (n := n) (k := k)
  rw [State.newlineEnded, h, circ_updSnd_same]

theorem newlineEnded_snd : ((s.newlineEnded n k).circ n).snd = (s.circ n).snd.newlineDone k := by
  obtain ⟨l, h⟩ := dropCapture_circ (s := s.updSnd n fun x => x.newlineDone k) (n := n) (k := k)
  rw [State.newlineEnded, h, circ_updSnd_same]

/-- Outside a replay a completed newline leads to what follows its cause, and then to the line's boundary. -/
theorem complete_newline (hr : (s.circ n).snd.replay = none) :
    s.complete n (.newline k) = ((s.newlineEnded n k).nlNext n k).lineTest n k := by
  have hrep : ((s.updSnd n fun x => x.newlineDone k).circ n).snd.replay = none := by
    rw [circ_updSnd_same]
    exact hr
  simp only [State.complete, replayCheck_none hrep]
  rfl

theorem complete_wordEnd_open (h : s.leaveOpen n = true) (hl : (s.circ n).snd.leave = none)
    (ha : (s.circ n).atLost = false) : s.complete n .wordEnd =
      if (s.circ n).sch.point = .wordBoundary then s.beginLeave n .preempt else s := by
  obtain ⟨-, -, hr, -⟩ := leaveOpen_iff.1 h
  simp only [State.complete, State.wordDone, replayCheck_none hr, ha, Bool.false_eq_true, if_false,
    wordTest_leaveOpen h hl]

/-- A newline of the text whose cause leads nowhere else ends at the line's boundary. -/
theorem complete_newline_open (h : s.leaveOpen n = true) (hl : (s.circ n).snd.leave = none)
    (hk : ∀ u : State, u.nlNext n k = u) : s.complete n (.newline k) =
      if (s.circ n).sch.point.reachedAt k then (s.newlineEnded n k).beginLeave n .preempt else s.newlineEnded n k := by
  obtain ⟨hi, hstop, hr, hp⟩ := leaveOpen_iff.1 h
  have hopen : (s.newlineEnded n k).leaveOpen n = true := by
    rw [leaveOpen_iff, newlineEnded_sch, newlineEnded_snd]
    exact ⟨hi, hstop, hr, hp⟩
  rw [complete_newline hr, hk, lineTest_leaveOpen hopen (by rw [newlineEnded_snd]; exact hl), newlineEnded_sch]

theorem updDelivery_circ (g : Delivery → Delivery) (m : Circ) : (s.updDelivery t n g).circ m = s.circ m :=
  yard_circ (yard_updDelivery s t n g) m

/-- The newline at which the text begins, of a head or a resume line, is a line end (R96, R127). -/
theorem enterText_lineTest {u : State} (hsch : (u.circ n).sch = (s.circ n).sch)
    (hsnd : (u.circ n).snd = (s.circ n).snd.newlineDone .svcLast) (hi : (s.circ n).sch.item ≠ none)
    (hstop : (s.circ n).sch.stop = .none) (hr : (s.circ n).snd.replay = none) (hl : (s.circ n).snd.leave = none) :
    (u.enterText n).lineTest n .svcLast = if (s.circ n).sch.point = .wordBoundary ∨ (s.circ n).sch.point = .lineEnd
      then (u.enterText n).beginLeave n .preempt else u.enterText n := by
  have hkept : ((u.enterText n).circ n).sch = (s.circ n).sch := by simp [State.enterText, hsch]
  have hopen : (u.enterText n).leaveOpen n = true := by
    rw [leaveOpen_iff, hkept]
    simp [State.enterText, hsnd, Sender.newlineDone, hi, hstop, hr]
  rw [lineTest_leaveOpen hopen (by simp [State.enterText, hsnd, Sender.newlineDone, hl]), hkept]
  simp only [reachedAt_svcLast]

theorem complete_resume (hr : (s.circ n).snd.replay = none) (hp : (s.circ n).snd.phase = .resume) :
    s.complete n (.newline .svcLast) = ((s.newlineEnded n .svcLast).enterText n).lineTest n .svcLast := by
  have hphase : ((s.newlineEnded n .svcLast).circ n).snd.phase = .resume := by
    rw [newlineEnded_snd]
    exact hp
  rw [complete_newline hr]
  simp only [State.nlNext, State.svcDone, hphase]

theorem complete_head (hi : (s.circ n).sch.item = some (.story t)) (hr : (s.circ n).snd.replay = none)
    (hp : (s.circ n).snd.phase = .head) : s.complete n (.newline .svcLast) =
      (((s.newlineEnded n .svcLast).updDelivery t n fun d => { d with headSent := true }).enterText n).lineTest n
        .svcLast := by
  have hphase : ((s.newlineEnded n .svcLast).circ n).snd.phase = .head := by
    rw [newlineEnded_snd]
    exact hp
  have htag : ((s.newlineEnded n .svcLast).circ n).sch.tag = some t := by
    rw [newlineEnded_sch]
    exact tag_of_item hi
  rw [complete_newline hr]
  simp only [State.nlNext, State.svcDone, hphase, State.headDone, htag]

theorem askTurn_takeRead {y : Sender} (hi : (s.circ n).sch.item = some (.story t)) (hs : s.story t = some st)
    (hp : (s.circ n).snd.phase = .text) (hr : textStep (s.textEnv n st) 128 (s.circ n).snd = (y, .takeRead)) :
    s.askTurn n =
      let v := s.afterRead n (s.fsize st.feed) y
      (if v.leaveOpen n = true ∧ (v.circ n).sch.point = .takeOrEnd then v.beginLeave n .preempt else v, true) := by
  simp only [State.askTurn, hi, hp, hs, hr, Bool.and_eq_true, beq_iff_eq]
  split <;> rfl

theorem mayLeave_running (hw : s.waitingCopy n = true) (hl : (s.circ n).lu.state = .running)
    (hstop : (s.circ n).sch.stop = .none) : s.mayLeave n = true := by
  simp [State.mayLeave, hw, hl, hstop]

theorem setPoint_waitingCopy : (s.setPoint n).waitingCopy n = s.waitingCopy n :=
  waitingCopy_congr rfl rfl (by simp [State.setPoint]) (by simp [State.setPoint]) (by simp [State.setPoint])

theorem pointMet_iff : s.pointMet n = true ↔ (s.circ n).snd.replay = none ∧
    ((s.circ n).sch.point = .wordBoundary ∨ (s.circ n).sch.point = .lineEnd) := by
  simp [State.pointMet]

/-- A word boundary or a line end is reached at once while the delivery waits for copy (R96). -/
theorem actAtOnce_waiting (hw : s.waitingCopy n = true) (hl : (s.circ n).lu.state = .running)
    (hstop : (s.circ n).sch.stop = .none) (hr : (s.circ n).snd.replay = none)
    (hp : s.pointOf n = .wordBoundary ∨ s.pointOf n = .lineEnd) :
    (s.setPoint n).actAtOnce n = (s.setPoint n).beginLeave n .preempt := by
  have hcirc : (s.setPoint n).circ n = { s.circ n with sch := { (s.circ n).sch with point := s.pointOf n } } := by
    simp [State.setPoint]
  have hmay : (s.setPoint n).mayLeave n = true :=
    mayLeave_running (setPoint_waitingCopy.trans hw) (by rw [hcirc]; exact hl) (by rw [hcirc]; exact hstop)
  have hmet : (s.setPoint n).pointMet n = true := by
    rw [pointMet_iff, hcirc]
    exact ⟨hr, hp⟩
  rw [actAtOnce_unstopped (by rw [hcirc]; exact hstop), State.leavesAtOnce, if_pos hmay, if_pos hmet]
  rfl

end

/-! ### What is done at the preemption point (R97) -/

section
variable {s : State} {n : Circ} {t : Tag} {st : Story} {d : Delivery}

theorem updSnd_updSnd (f g : Sender → Sender) : (s.updSnd n f).updSnd n g = s.updSnd n fun d => g (f d) := by
  simp only [State.updSnd, circ_setCirc_same, setCirc_setCirc]

theorem beginLeave_eq (k : Leave) : s.beginLeave n k = if (s.circ n).snd.column = 0
    then (s.updSnd n fun d => { d with leave := some k }).preemptDone n
    else s.updSnd n fun d => { d with leave := some k, plan := placeNewline (s.ccfg n).fill .leave } := by
  simp only [State.beginLeave, circ_updSnd_same, updSnd_updSnd]
  rfl

/-- The record of a preempted or put-aside delivery's story: PREEMPTED with its resume offset, and a put-aside's dry
mark (R97, R99; log entry 37). -/
def State.leftRecord (s : State) (n : Circ) (st : Story) (d : Delivery) : Story :=
  { st.setDelivery n { d with
      state := .preempted, resumeOff := s.resumeOf n st
      inDirective := (s.circ n).snd.inDirective && s.resumeOf n st == (s.circ n).snd.nextUnsent } with
    dry := if (s.circ n).snd.leave = some .putAside then st.dry.add n else st.dry }

theorem preemptDone_live (hi : (s.circ n).sch.item = some (.story t)) (hs : s.story t = some st)
    (hd : st.delivery n = some d) : s.preemptDone n =
      (((s.setStory t (some (s.leftRecord n st d))).leaveService n).dropPend n).enqueueBack n (.story t) := by
  simp only [State.preemptDone, tag_of_item hi, hs, updDelivery_live _ hs hd, State.leftRecord]
  by_cases ha : (s.circ n).snd.leave = some .putAside
  · simp only [ha, beq_self_eq_true, if_true, updStory_live (story_setStory_same s t _), setStory_setStory]
    rfl
  · have hb : ((s.circ n).snd.leave == some .putAside) = false := beq_false_of_ne ha
    simp only [hb, Bool.false_eq_true, if_false, ha]
    rfl

theorem skipSpaces_succ (l : List LUnit) (size e k q : Nat) : skipSpaces l size e (k + 1) q =
    if q ≠ e ∧ lookAt q l = .byte 0x20 then skipSpaces l size e k ((q + 1) % size) else q := by
  rw [skipSpaces]
  by_cases hq : q = e
  · simp [hq]
  · cases h : lookAt q l <;> simp [hq]

theorem resumeOf_eq_nextUnsent (h : (s.circ n).snd.nextUnsent = st.textEnd ∨
    lookAt (s.circ n).snd.nextUnsent (s.circ n).ftc.look ≠ .byte 0x20) :
    s.resumeOf n st = (s.circ n).snd.nextUnsent := by
  rw [State.resumeOf, skipSpaces_succ, if_neg]
  rintro ⟨hne, hspace⟩
  exact h.elim hne (· hspace)

theorem settleLine_free (hi : (s.circ n).sch.item = none) (hs : (s.circ n).sch.stop = .none) :
    s.settleLine n = (s.setPoint n).settleAfter n := by
  rw [settleLine_eq, actAtOnce_free (by simp [State.setPoint, hi]) (by simp [State.setPoint, hs])]

end

/-- Settles O42: the point by R94's rows, its storing, the places where it is reached, and what is done there. -/
theorem preemptionPoint : Obligations.PreemptionPoint := by
  refine ⟨fun s n => ⟨pointOf_none, fun t st hi hs hstop => pointOf_iff hi hs hstop⟩,
    fun s n => ⟨setPoint_point, settleLine_point⟩, fun s n => ?_, fun s n => ?_⟩
  · refine ⟨leaveOpen_iff, fun ho hl => ⟨complete_wordEnd_open ho hl, fun k hk => ?_, ?_⟩,
      fun hi hstop hr hl => ⟨fun hp => ?_, fun t ht hp => ?_⟩, fun t st y hi hs hp => askTurn_takeRead hi hs hp,
      actAtOnce_waiting⟩
    · have hnext : ∀ u : State, u.nlNext n k = u := fun u => by rcases hk with rfl | rfl | rfl <;> rfl
      rw [complete_newline_open ho hl hnext]
      simp only [reachedAt_textNewline _ hk]
      rfl
    · rw [complete_newline_open ho hl fun _ => rfl]
      simp only [reachedAt_hold]
      rfl
    · rw [complete_resume hr hp]
      exact enterText_lineTest newlineEnded_sch newlineEnded_snd hi hstop hr hl
    · rw [complete_head ht hr hp]
      exact enterText_lineTest (by rw [updDelivery_circ, newlineEnded_sch])
        (by rw [updDelivery_circ, newlineEnded_snd]) hi hstop hr hl
  · refine ⟨beginLeave_eq, fun h => if_pos h, fun h => if_neg h, fun t st d hi hs hd => ⟨preemptDone_live hi hs hd,
      resumeOf_eq_nextUnsent, rfl⟩, skipSpaces_succ, settleLine_free⟩

end Sys2Proof.Machine
end

section
namespace Sys2Proof.Machine

/-! ### The item selection takes (R91) -/

section
variable {s : State} {n : Circ}

theorem firstFresh_none {q : List Item} : s.firstFresh n q = none ↔ ∀ i ∈ q, s.dryOn n i = true := by
  induction q with
  | nil => simp [State.firstFresh]
  | cons i q ih =>
    rw [State.firstFresh]
    split
    · rename_i hdry
      simp [ih, hdry]
    · rename_i hdry
      simp [hdry]

theorem firstFresh_some {q r : List Item} {i : Item} (h : s.firstFresh n q = some (i, r)) :
    ∃ a b, q = a ++ i :: b ∧ r = a ++ b ∧ s.dryOn n i = false ∧ ∀ x ∈ a, s.dryOn n x = true := by
  induction q generalizing r with
  | nil => cases h
  | cons y q ih =>
    rw [State.firstFresh] at h
    split at h
    · rename_i hdry
      obtain ⟨⟨j, r'⟩, hfirst, hp⟩ := Option.map_eq_some_iff.1 h
      obtain ⟨rfl, rfl⟩ := Prod.mk.inj hp
      obtain ⟨a, b, rfl, rfl, hi, ha⟩ := ih hfirst
      exact ⟨y :: a, b, rfl, rfl, hi, List.forall_mem_cons.2 ⟨hdry, ha⟩⟩
    · rename_i hdry
      obtain ⟨rfl, rfl⟩ := Prod.mk.inj (Option.some.inj h)
      exact ⟨[], q, rfl, rfl, by simpa using hdry, by simp⟩

/-- Selection takes the first item that is not dry, or the first of all if every one is (R91). -/
theorem pick_some {q : List Item} (hq : q ≠ []) : ∃ i a b, q = a ++ i :: b ∧ s.pick n q = some (i, a ++ b) ∧
    (s.dryOn n i = false ∧ (∀ x ∈ a, s.dryOn n x = true) ∨ (∀ x ∈ q, s.dryOn n x = true) ∧ a = []) := by
  obtain ⟨y, q, rfl⟩ := List.exists_cons_of_ne_nil hq
  rw [State.pick]
  cases hfirst : s.firstFresh n (y :: q) with
  | none => exact ⟨y, [], q, rfl, rfl, .inr ⟨firstFresh_none.1 hfirst, rfl⟩⟩
  | some p =>
    obtain ⟨a, b, hq, hp, hi, ha⟩ := firstFresh_some (i := p.1) (r := p.2) hfirst
    exact ⟨p.1, a, b, hq, by rw [← hp], .inl ⟨hi, ha⟩⟩

/-- The circuit's record as an item enters service (R91, R109, R144). -/
def Circuit.serve (c : Circuit) (r : Nat × Bool) (i : Item) (rest : List Item) : Circuit :=
  { c with
    sch := { c.sch with queue := rest, item := some i, stop := .none, stopMet := false, starve := 0 }
    snd := { c.snd with
      phase := .opening, svc := none, held := [], readPos := r.1, nextUnsent := r.1, inDirective := r.2, origin := .none
      originDir := false, stopBegun := false, leave := none, replay := none }
    ftc := { c.ftc with look := [], nextFetch := unitOf r.1 } }

/-- The story table as an item enters service: a delivery becomes IN_SERVICE (R87, R91). -/
def State.served (s : State) (n : Circ) (i : Item) : State :=
  match i with
  | .notice _ => s
  | .story t => s.updDelivery t n fun d => { d with state := .inService }

theorem enterService_eq (i : Item) (rest : List Item) : s.enterService n i rest =
    (s.setCirc n ((s.circ n).serve (s.resumePoint n i) i rest)).served n i := by
  simp only [State.enterService, State.updSch, State.updSnd, State.updFtc, circ_setCirc_same, setCirc_setCirc]
  cases i <;> rfl

theorem served_circ (i : Item) (m : Circ) : (s.served n i).circ m = s.circ m := by
  cases i with
  | notice x => rfl
  | story t => exact updDelivery_circ _ m

theorem updDelivery_writer (t : Tag) (g : Delivery → Delivery) : (s.updDelivery t n g).writer = s.writer := by
  unfold State.updDelivery State.updStory
  split <;> rfl

theorem served_writer (i : Item) : (s.served n i).writer = s.writer := by
  cases i with
  | notice x => rfl
  | story t => exact updDelivery_writer t _

theorem updDelivery_story_ne {t v : Tag} (h : t ≠ v) (g : Delivery → Delivery) :
    (s.updDelivery t n g).story v = s.story v := by
  unfold State.updDelivery State.updStory
  split
  · rfl
  · exact story_setStory_ne s h _

theorem served_story_ne {i : Item} {v : Tag} (h : i ≠ .story v) : (s.served n i).story v = s.story v := by
  cases i with
  | notice x => rfl
  | story t => exact updDelivery_story_ne (fun htv => h (by rw [htv])) _

theorem served_story {t : Tag} {st : Story} {d : Delivery} (hs : s.story t = some st) (hd : st.delivery n = some d) :
    (s.served n (.story t)).story t = some (st.setDelivery n { d with state := .inService }) := by
  rw [State.served, updDelivery_live _ hs hd, story_setStory_same]

theorem enterService_circ (i : Item) (rest : List Item) :
    (s.enterService n i rest).circ n = (s.circ n).serve (s.resumePoint n i) i rest := by
  rw [enterService_eq, served_circ, circ_setCirc_same]

theorem enterService_circ_ne {m : Circ} (hm : m ≠ n) (i : Item) (rest : List Item) :
    (s.enterService n i rest).circ m = s.circ m := by
  rw [enterService_eq, served_circ, circ_setCirc, if_neg (Ne.symm hm)]

theorem enterService_story_ne {i : Item} {v : Tag} (h : i ≠ .story v) (rest : List Item) :
    (s.enterService n i rest).story v = s.story v := by
  rw [enterService_eq, served_story_ne h, setCirc_story]

/-- Selection on a free, ready circuit with items queued. -/
theorem select_ready (hi : (s.circ n).sch.item = none) (hl : (s.circ n).lu.state = .running)
    (hh : (s.circ n).lu.hold = false) {i : Item} {rest : List Item}
    (hp : s.pick n (s.circ n).sch.queue = some (i, rest)) : s.select n = s.enterService n i rest := by
  simp [State.select, State.ready, hi, hl, hh, hp]

/-- Settling behind what is reached at once leaves a circuit that serves an item its Sender, its item and its queue. -/
theorem settleAfter_serving (h : (s.circ n).sch.item ≠ none) : (s.settleAfter n).stories = s.stories ∧
    ((s.settleAfter n).circ n).snd = (s.circ n).snd ∧ ((s.settleAfter n).circ n).sch.item = (s.circ n).sch.item ∧
    ((s.settleAfter n).circ n).sch.queue = (s.circ n).sch.queue := by
  rw [settleAfter_stories, settleAfter_snd, settleAfter_sch, select_unready (.inl h)]
  exact ⟨rfl, rfl, rfl, rfl⟩

end

/-! ### The put-aside (R98, R99) -/

section
variable {s : State} {n : Circ} {t : Tag} {st : Story} {d : Delivery}

theorem exec_starveLimitReached : exec (.starveLimitReached n) s = .next (s.starveReached n).settleBus := rfl

theorem item_of_waitingCopy (h : s.waitingCopy n = true) : (s.circ n).sch.item ≠ none := by
  intro hi
  simp [State.waitingCopy, Sched.tag, hi] at h

/-- The circuit told of its starvation limit (R99), before its preemption point is recomputed. -/
def State.starveCounted (s : State) (n : Circ) : State := s.updSch n fun c => { c with
  starve := max c.starve (s.ccfg n).starveLim, waitEnd := (s.circ n).snd.readPos }

/-- The circuit told of its starvation limit, its preemption point recomputed (R95, R99). -/
def State.starveTold (s : State) (n : Circ) : State := (s.starveCounted n).setPoint n

theorem starveCounted_pointOf : (s.starveCounted n).pointOf n = s.pointOf n := by
  have hcirc : (s.starveCounted n).circ n = _ := circ_updSch_same s n _
  exact pointOf_congr rfl (by rw [hcirc]) (by rw [hcirc]) (by rw [hcirc])

theorem starveTold_circ : (s.starveTold n).circ n = { s.circ n with sch := { (s.circ n).sch with
    starve := max (s.circ n).sch.starve (s.ccfg n).starveLim
    waitEnd := (s.circ n).snd.readPos
    point := s.pointOf n } } := by
  rw [State.starveTold, State.setPoint, circ_updSch_same, starveCounted_pointOf, State.starveCounted, circ_updSch_same]

/-- STARVE_LIMIT_REACHED of a waiting delivery in RUNNING (R99). -/
theorem starveReached_waiting (hl : (s.circ n).lu.state = .running) (hw : s.waitingCopy n = true)
    (hlim : (s.ccfg n).starveLim ≠ 0) : s.starveReached n = ((s.starveTold n).actAtOnce n).settleAfter n := by
  have hcond : ((s.circ n).lu.state == .running && s.waitingCopy n && (s.ccfg n).starveLim != 0) = true := by
    simp [hl, hw, hlim]
  rw [State.starveReached, if_pos hcond, State.sched, if_neg (by simp [hl])]
  rfl

theorem starveReached_unmet (h : s.waitingCopy n = false ∨ (s.ccfg n).starveLim = 0 ∨ (s.circ n).lu.state ≠ .running) :
    s.starveReached n = s := if_neg (by
  simp only [Bool.and_eq_true, beq_iff_eq, bne_iff_ne, not_and_or, Bool.not_eq_true]
  tauto)

theorem starveTold_hasFresh : (s.starveTold n).hasFresh n = s.hasFresh n := by
  simp only [State.hasFresh, starveTold_circ, dryOn_congr (s := s) (u := s.starveTold n) rfl]

/-- A waiting delivery told of its starvation limit is put aside when a fresh item is queued and no preemption is
reached (R99; log entry 42). -/
theorem starveTold_leavesAtOnce (hl : (s.circ n).lu.state = .running) (hw : s.waitingCopy n = true)
    (hlim : (s.ccfg n).starveLim ≠ 0) (hstop : (s.circ n).sch.stop = .none)
    (hp : (s.circ n).snd.replay = none → s.pointOf n ≠ .wordBoundary ∧ s.pointOf n ≠ .lineEnd) :
    (s.starveTold n).leavesAtOnce n = if s.hasFresh n then some .putAside else none := by
  have hcirc := starveTold_circ (s := s) (n := n)
  have hwait : (s.starveTold n).waitingCopy n = s.waitingCopy n :=
    waitingCopy_congr rfl rfl (by rw [hcirc]) (by rw [hcirc]) (by rw [hcirc])
  have hmay : (s.starveTold n).mayLeave n = true :=
    mayLeave_running (hwait.trans hw) (by rw [hcirc]; exact hl) (by rw [hcirc]; exact hstop)
  have hmet : ¬ (s.starveTold n).pointMet n = true := by
    rw [pointMet_iff, hcirc]
    rintro ⟨hr, hpoint⟩
    exact hpoint.elim (hp hr).1 (hp hr).2
  have hstarved : (s.starveTold n).starved n = true := by
    have hcfg : (s.starveTold n).ccfg n = s.ccfg n := rfl
    simp [State.starved, hcirc, hcfg, hlim]
  rw [State.leavesAtOnce, if_pos hmay, if_neg hmet, hstarved, starveTold_hasFresh, Bool.true_and]

theorem starveTold_actAtOnce (hl : (s.circ n).lu.state = .running) (hw : s.waitingCopy n = true)
    (hlim : (s.ccfg n).starveLim ≠ 0) (hstop : (s.circ n).sch.stop = .none)
    (hp : (s.circ n).snd.replay = none → s.pointOf n ≠ .wordBoundary ∧ s.pointOf n ≠ .lineEnd) :
    (s.starveTold n).actAtOnce n =
      if s.hasFresh n then (s.starveTold n).beginLeave n .putAside else s.starveTold n := by
  rw [actAtOnce_unstopped (by rw [starveTold_circ]; exact hstop), starveTold_leavesAtOnce hl hw hlim hstop hp]
  split <;> rfl

/-- With every waiting item dry no preemption point is set (R94). -/
theorem pointOf_stale (h : s.hasFresh n = false) : s.pointOf n = .none := by
  have hdry : ∀ i ∈ (s.circ n).sch.queue, s.dryOn n i = true := by simpa [State.hasFresh] using h
  by_cases hstop : (s.circ n).sch.stop = .none
  · cases hi : (s.circ n).sch.item with
    | none => exact pointOf_none (.inr (.inl hi))
    | some i =>
      cases i with
      | notice x => exact pointOf_none (.inr (.inr ⟨x, hi⟩))
      | story t =>
        cases hs : s.story t with
        | none => simp only [State.pointOf, hi, hstop, hs]
        | some st =>
          have hbetter : ∀ k, ¬ s.Better n (s.circ n).sch.queue st.cls.1 k := fun k ⟨i, hmem, hfresh, _⟩ => by
            rw [hdry i hmem] at hfresh
            cases hfresh
          obtain ⟨-, -, -, hnone⟩ := pointOf_iff hi hs hstop
          exact hnone.2 ⟨hbetter 2, hbetter 1, hbetter 0⟩
  · exact pointOf_none (.inl hstop)

end

/-! ### A delivery put aside at column 0 (R97, R99) -/

section
variable {s : State} {n : Circ} {t : Tag} {st : Story} {d : Delivery}

theorem has_add_same (c : CircSet) (n : Circ) : CircSet.has (c.add n) n = true := by simp [has_add]

/-- The circuit as a preemption leaves it: nothing in service, the item back in its queue (R90, R97). -/
theorem preemptDone_circ (hi : (s.circ n).sch.item = some (.story t)) (hs : s.story t = some st)
    (hd : st.delivery n = some d) : ((s.preemptDone n).circ n).sch.item = none ∧
      ((s.preemptDone n).circ n).lu = (s.circ n).lu ∧
      ∀ x, x ∈ ((s.preemptDone n).circ n).sch.queue ↔ x = .story t ∨ x ∈ (s.circ n).sch.queue := by
  rw [preemptDone_live hi hs hd]
  simp only [State.enqueueBack, State.dropPend, circ_updSch_same, circ_updSnd_same, leaveService_circ, setStory_circ]
  exact ⟨trivial, trivial, fun x => mem_insertBack⟩

theorem preemptDone_story (hi : (s.circ n).sch.item = some (.story t)) (hs : s.story t = some st)
    (hd : st.delivery n = some d) (v : Tag) :
    (s.preemptDone n).story v = if t = v then some (s.leftRecord n st d) else s.story v := by
  rw [preemptDone_live hi hs hd]
  exact vget_vset _ _ _ _

/-- The delivery put aside at column 0, before selection (R97, R99). -/
def State.putAside (s : State) (n : Circ) : State :=
  (s.updSnd n fun d => { d with leave := some .putAside }).preemptDone n

theorem putAside_circ (hi : (s.circ n).sch.item = some (.story t)) (hs : s.story t = some st)
    (hd : st.delivery n = some d) : ((s.putAside n).circ n).sch.item = none ∧
      ((s.putAside n).circ n).lu = (s.circ n).lu ∧
      ∀ x, x ∈ ((s.putAside n).circ n).sch.queue ↔ x = .story t ∨ x ∈ (s.circ n).sch.queue := by
  have h := preemptDone_circ (s := s.updSnd n fun d => { d with leave := some .putAside })
    (by rw [circ_updSnd_same]; exact hi) hs hd
  rw [circ_updSnd_same] at h
  exact h

/-- The record of the story put aside: PREEMPTED, its count kept, and dry (R99). -/
theorem putAside_story (hi : (s.circ n).sch.item = some (.story t)) (hs : s.story t = some st)
    (hd : st.delivery n = some d) : ∃ st' d', (s.putAside n).story t = some st' ∧ st'.delivery n = some d' ∧
      d'.state = .preempted ∧ d'.chars = d.chars ∧ CircSet.has st'.dry n = true := by
  have h := preemptDone_story (s := s.updSnd n fun d => { d with leave := some .putAside })
    (by rw [circ_updSnd_same]; exact hi) hs hd t
  refine ⟨_, _, h.trans (if_pos rfl), (delivery_setDelivery _ _ _ _).trans (if_pos rfl), rfl, rfl, ?_⟩
  rw [State.leftRecord, circ_updSnd_same]
  exact has_add_same _ n

theorem putAside_dryOn_ne (hi : (s.circ n).sch.item = some (.story t)) (hs : s.story t = some st)
    (hd : st.delivery n = some d) {i : Item} (h : i ≠ .story t) : (s.putAside n).dryOn n i = s.dryOn n i := by
  cases i with
  | notice x => rfl
  | story v =>
    have hstory := preemptDone_story (s := s.updSnd n fun d => { d with leave := some .putAside })
      (by rw [circ_updSnd_same]; exact hi) hs hd v
    rw [if_neg fun htv => h (by rw [htv])] at hstory
    simp only [State.dryOn, State.putAside, hstory]
    rfl

/-- The fresh items behind a put-aside are those before it (R91, R99). -/
theorem putAside_fresh_iff (hi : (s.circ n).sch.item = some (.story t)) (hs : s.story t = some st)
    (hd : st.delivery n = some d) (hq : Item.story t ∉ (s.circ n).sch.queue) (i : Item) :
    i ∈ ((s.putAside n).circ n).sch.queue ∧ (s.putAside n).dryOn n i = false ↔
      i ∈ (s.circ n).sch.queue ∧ s.dryOn n i = false := by
  obtain ⟨-, -, hqueue⟩ := putAside_circ hi hs hd
  rw [hqueue]
  by_cases hit : i = .story t
  · obtain ⟨st', d', hst', -, -, -, hdry⟩ := putAside_story hi hs hd
    subst hit
    simp [State.dryOn, hst', hdry, hq]
  · simp [putAside_dryOn_ne hi hs hd hit, hit]

/-- An item that a circuit in RUNNING takes from a queue with a fresh one is fresh (R91). -/
theorem select_fresh (hi : (s.circ n).sch.item = none) (hl : (s.circ n).lu.state = .running)
    (hh : (s.circ n).lu.hold = false) (hf : s.hasFresh n = true) : ∃ i rest,
      (i ∈ (s.circ n).sch.queue ∧ s.dryOn n i = false) ∧ s.select n = s.enterService n i rest := by
  obtain ⟨j, hj, hfresh⟩ := hasFresh_iff.1 hf
  obtain ⟨i, a, b, hq, hpick, hdry⟩ := pick_some (s := s) (n := n) (List.ne_nil_of_mem hj)
  refine ⟨i, a ++ b, ⟨by rw [hq]; simp, ?_⟩, select_ready hi hl hh hpick⟩
  rcases hdry with ⟨hi, -⟩ | ⟨hall, -⟩
  · exact hi
  · rw [hall j hj] at hfresh
    cases hfresh

/-- Selection behind a put-aside in RUNNING takes a fresh item, or none while a hold is pending, and leaves the
record of the story put aside (R91, R99). -/
theorem putAside_select (hi : (s.circ n).sch.item = some (.story t)) (hs : s.story t = some st)
    (hd : st.delivery n = some d) (hq : Item.story t ∉ (s.circ n).sch.queue) (hl : (s.circ n).lu.state = .running)
    (hf : s.hasFresh n = true) : ((s.putAside n).select n).story t = (s.putAside n).story t ∧
      ((s.circ n).lu.hold = false → ∃ i ∈ (s.circ n).sch.queue, s.dryOn n i = false ∧
        (((s.putAside n).select n).circ n).sch.item = some i) ∧
      ((s.circ n).lu.hold = true → (((s.putAside n).select n).circ n).sch.item = none) := by
  obtain ⟨hitem, hlu, -⟩ := putAside_circ hi hs hd
  have hfresh : (s.putAside n).hasFresh n = true := by
    obtain ⟨j, hj⟩ := hasFresh_iff.1 hf
    exact hasFresh_iff.2 ⟨j, (putAside_fresh_iff hi hs hd hq j).2 hj⟩
  cases hh : (s.circ n).lu.hold with
  | true =>
    rw [select_unready (.inr (.inr (.inl (by rw [hlu]; exact hh))))]
    exact ⟨rfl, nofun, fun _ => hitem⟩
  | false =>
    obtain ⟨i, rest, hmem, hsel⟩ :=
      select_fresh hitem (by rw [hlu]; exact hl) (by rw [hlu]; exact hh) hfresh
    obtain ⟨hqueue, hdry⟩ := (putAside_fresh_iff hi hs hd hq i).1 hmem
    rw [hsel, enterService_circ]
    exact ⟨enterService_story_ne (fun hit => hq (by rw [← hit]; exact hqueue)) rest,
      fun _ => ⟨i, hqueue, hdry, rfl⟩, nofun⟩

end

/-- Settles O43: selection by its pick; the put-aside by the three things it can come to: put aside at column 0, its
newline placed above it, or nothing. -/
theorem selectionAndPutAside : Obligations.SelectionAndPutAside := by
  intro s n
  refine ⟨fun hi hl hh hq => ?_, select_unready, fun t st d hi hs hd hl hw hlim hstop hnq hp => ⟨fun hf hcol => ?_,
    fun hf hcol => ?_⟩, fun hl hw hlim hstop hf => ?_, fun h => ?_⟩
  · obtain ⟨i, a, b, hsplit, hpick, hdry⟩ := pick_some (s := s) (n := n) hq
    refine ⟨i, a, b, hsplit, hdry, ?_⟩
    rw [select_ready hi hl hh hpick, enterService_circ]
    refine ⟨rfl, rfl, rfl, rfl, rfl, rfl, fun t st d hit hs hd => ?_, fun v hv => enterService_story_ne hv _,
      fun m hm => enterService_circ_ne hm i _, ?_⟩
    · subst hit
      rw [enterService_eq]
      exact served_story hs hd
    · rw [enterService_eq, served_writer, setCirc_writer]
  · have hcirc := starveTold_circ (s := s) (n := n)
    have hi' : ((s.starveTold n).circ n).sch.item = some (.story t) := by rw [hcirc]; exact hi
    obtain ⟨hstory, hitem, hnone⟩ := putAside_select hi' hs hd (by rw [hcirc]; exact hnq) (by rw [hcirc]; exact hl)
      (starveTold_hasFresh.trans hf)
    obtain ⟨st', d', hst', hd', hstate, hchars, hdry⟩ := putAside_story hi' hs hd
    have hact : (s.starveTold n).actAtOnce n = (s.starveTold n).putAside n := by
      rw [starveTold_actAtOnce hl hw hlim hstop hp, if_pos hf, beginLeave_eq, if_pos (by rw [hcirc]; exact hcol)]
      rfl
    rw [hcirc] at hitem hnone
    refine ⟨_, st', d', rfl, ?_, hd', hstate, hchars, hdry, ?_⟩ <;> rw [starveReached_waiting hl hw hlim, hact]
    · rw [settleBus_story, State.story, settleAfter_stories]
      exact hstory.trans hst'
    · rw [settleBus_circ, settleAfter_sch]
      exact ⟨hitem, hnone⟩
  · have hcirc := starveTold_circ (s := s) (n := n)
    have hact : (s.starveTold n).actAtOnce n = (s.starveTold n).updSnd n fun d =>
        { d with leave := some .putAside, plan := placeNewline (s.ccfg n).fill .leave } := by
      rw [starveTold_actAtOnce hl hw hlim hstop hp, if_pos hf, beginLeave_eq,
        if_neg (by rw [hcirc]; exact Nat.pos_iff_ne_zero.1 hcol)]
      rfl
    have hserve : (((s.starveTold n).actAtOnce n).circ n).sch.item = some (.story t) := by
      rw [hact, circ_updSnd_same, hcirc]
      exact hi
    obtain ⟨hstories, hsnd, hitem, hqueue⟩ := settleAfter_serving (by rw [hserve]; nofun)
    refine ⟨_, rfl, ?_⟩
    rw [settleBus_stories, settleBus_circ, starveReached_waiting hl hw hlim, hstories, hsnd, hitem, hqueue, hact,
      circ_updSnd_same, hcirc]
    exact ⟨rfl, hi, rfl, rfl⟩
  · have hcirc := starveTold_circ (s := s) (n := n)
    have hact : (s.starveTold n).actAtOnce n = s.starveTold n := by
      rw [starveTold_actAtOnce hl hw hlim hstop fun _ => by simp [pointOf_stale hf], hf]
      rfl
    obtain ⟨hstories, hsnd, hitem, hqueue⟩ := settleAfter_serving (s := s.starveTold n) (n := n)
      (by rw [hcirc]; exact item_of_waitingCopy hw)
    refine ⟨_, rfl, ?_⟩
    rw [settleBus_stories, settleBus_circ, starveReached_waiting hl hw hlim, hact, hstories, hsnd, hitem, hqueue, hcirc]
    exact ⟨rfl, rfl, rfl, rfl⟩
  · exact ⟨_, rfl, by rw [starveReached_unmet h]; exact settleBus_sameBlocks (sameBlocks_update s.bus s.mirror s.mem)⟩

end Sys2Proof.Machine
end

section
namespace Sys2Proof.Machine

/-! ### A circuit with no pending part takes none (R22, R143)

Whatever a fault, a restore or a start of the motor does on a circuit whose part is not pending, the applied circuit
entries and the pending circuit parts stay. -/

section
variable {s : State} {n : Circ}

theorem pendCirc_of_parts {u : State} {b : Bool} (hu : u.parts = s.parts) (h : vget s.mirror.pendCirc n = b) :
    vget u.mirror.pendCirc n = b := by
  rw [parts_pendCirc hu, h]

theorem circBoundary_settled (h : vget s.mirror.pendCirc n = false) : s.circBoundary n = s := by
  simp [State.circBoundary, h]

theorem circBoundary_pending (h : vget s.mirror.pendCirc n = true) : s.circBoundary n = s.examineCirc n := if_pos h

theorem afterPart_parts {t : State} (h : t.parts = s.parts) : s.afterPart n t = t := if_pos (parts_ccfg h n)

theorem parts_heldCore (h : vget s.mirror.pendCirc n = false) : (s.heldCore n).parts = s.parts := by
  simp only [State.heldCore]
  rw [circBoundary_settled (s := s.updLu n _) h, parts_settleLine, parts_updLu]

theorem parts_enterHeld (h : vget s.mirror.pendCirc n = false) : (s.enterHeld n).parts = s.parts := by
  rw [State.enterHeld, afterPart_parts (parts_heldCore h), parts_heldCore h]

theorem parts_enterRunning : (s.enterRunning n).parts = s.parts := by simp [State.enterRunning]

theorem parts_leadOver : (s.leadOver n).parts = s.parts := by simp [State.leadOver, parts_enterRunning]

theorem parts_leadSlots {ends : State → Circ → State} (h : (ends s n).parts = s.parts) :
    (s.leadSlots n ends).parts = s.parts := by
  simp only [State.leadSlots]
  split
  · exact h
  · exact parts_updLu s n _

theorem parts_brokenCore : (s.brokenCore n).parts = s.parts := by simp [State.brokenCore]

theorem parts_restartLine (cap : Capture) : (s.restartLine n cap).parts = s.parts := by
  simp only [State.restartLine]
  split <;> simp

theorem parts_takeUp : (s.takeUp n).parts = s.parts := by
  unfold State.takeUp
  (repeat' split)
  · rfl
  · exact parts_restartLine _
  · exact parts_updLu s n _

theorem parts_clearBreak (h : vget s.mirror.pendCirc n = false) : (s.clearBreak n).parts = s.parts := by
  unfold State.clearBreak
  split
  · rfl
  · rename_i cap _
    extract_lets into cleared told
    have htold : told.parts = s.parts := by simp [told, cleared]
    clear_value told into
    split
    · rw [parts_heldCore (pendCirc_of_parts (by rw [parts_updLu, htold]) h), parts_updLu, htold]
    · rw [parts_leadSlots parts_leadOver, parts_updLu, htold]
    · rw [parts_enterRunning, parts_takeUp, htold]

theorem parts_enterBroken (h : vget s.mirror.pendCirc n = false) : (s.enterBroken n).parts = s.parts := by
  simp only [State.enterBroken]
  split
  · rw [parts_clearBreak (pendCirc_of_parts parts_brokenCore h), parts_brokenCore]
  · exact parts_brokenCore

theorem parts_faultItem : (s.faultItem n).parts = s.parts := by
  simp only [State.faultItem]
  (repeat' split) <;> simp

/-- The circuit in FAULT, its item out of service, before CIRCUIT_FAULT (R152). -/
def State.faulted (s : State) (n : Circ) : State :=
  (State.updSnd (State.faultItem (s.updLu n fun l =>
    { l with
      state := .fault, motor := false, slot := none, idle := none, leadLeft := 0, hold := l.faultHold
      capture := none, fltDet := false, brkDet := false }) n) n fun d => { d with plan := [] }).setPoint n

/-- The same with CIRCUIT_FAULT posted (R152, R166). -/
def State.faultTold (s : State) (n : Circ) : State :=
  (s.faulted n).post ((s.faulted n).faultReport n (s.circ n).sch.tag (s.circ n).lu.state)

theorem faultCore_eq : s.faultCore n = ((s.faultTold n).circBoundary n).settleLine n := rfl

theorem parts_faultTold : (s.faultTold n).parts = s.parts := by
  simp [State.faultTold, State.faulted, parts_faultItem]

theorem faultCore_settled (h : vget s.mirror.pendCirc n = false) : s.faultCore n = (s.faultTold n).settleLine n := by
  rw [faultCore_eq, circBoundary_settled (pendCirc_of_parts parts_faultTold h)]

theorem parts_faultCore (h : vget s.mirror.pendCirc n = false) : (s.faultCore n).parts = s.parts := by
  rw [faultCore_settled h, parts_settleLine, parts_faultTold]

theorem parts_leadEnd (h : vget s.mirror.pendCirc n = false) : (s.leadEnd n).parts = s.parts := by
  unfold State.leadEnd
  extract_lets ended
  have hended : ended.parts = s.parts := parts_updLu s n _
  have hheld : (ended.enterHeld n).parts = s.parts := (parts_enterHeld (pendCirc_of_parts hended h)).trans hended
  (repeat' split)
  · exact (parts_faultCore (pendCirc_of_parts hheld h)).trans hheld
  · exact (parts_enterBroken (pendCirc_of_parts hheld h)).trans hheld
  · exact hheld
  · exact parts_enterRunning.trans hended

theorem parts_leadStart (h : vget s.mirror.pendCirc n = false) : (s.leadStart n).parts = s.parts := by
  simp only [State.leadStart]
  rw [parts_leadSlots (parts_leadEnd (s := (s.updLu n _).updSnd n _) h), parts_updSnd, parts_updLu]

theorem parts_sched (h : vget s.mirror.pendCirc n = false) : (s.sched n).parts = s.parts := by
  unfold State.sched
  split
  · exact parts_leadStart h
  · exact parts_settleLine s n

theorem parts_restore (h : vget s.mirror.pendCirc n = false) : (s.restore n).parts = s.parts := by
  unfold State.restore
  extract_lets stopped unknown told
  have htold : told.parts = s.parts := by simp [told, unknown, stopped]
  have hpend : vget told.mirror.pendCirc n = false := pendCirc_of_parts htold h
  rw [circBoundary_settled hpend, afterPart_parts rfl, parts_sched hpend, htold]

/-- With no part pending FAULT takes none, so it is not left in the same event (R143, R152). -/
theorem enterFault_settled (h : vget s.mirror.pendCirc n = false) : s.enterFault n = (s.faultTold n).settleLine n := by
  have hcfg : (s.faultCore n).ccfg n = s.ccfg n := parts_ccfg (parts_faultCore h) n
  simp only [State.enterFault, hcfg, ne_eq, not_true_eq_false, false_and, if_false]
  exact faultCore_settled h

/-- A pending part is taken in FAULT, whatever it leads to (R143). -/
theorem enterFault_pending (h : vget s.mirror.pendCirc n = true) :
    (s.enterFault n).parts = ((s.faultTold n).examineCirc n).parts := by
  have hcore : (s.faultCore n).parts = ((s.faultTold n).examineCirc n).parts := by
    rw [faultCore_eq, circBoundary_pending (pendCirc_of_parts parts_faultTold h), parts_settleLine]
  have hpend : vget (s.faultCore n).mirror.pendCirc n = false := pendCirc_of_parts hcore (examineCirc_pendCirc n)
  simp only [State.enterFault]
  split
  · rw [parts_restore hpend, hcore]
  · exact hcore

theorem staging_of_outer {u : State} (h : u.outer = s.outer) : u.mirror.staging = s.mirror.staging :=
  congrArg (·.2.2.1) h

theorem outer_faultTold : (s.faultTold n).outer = s.outer := by simp [State.faultTold, State.faulted]

end

/-! ### The Line Unit in FAULT (R152) -/

section
variable {s : State} {n : Circ} {t : Tag} {st : Story} {d : Delivery}

theorem post_circ (r : Report) (m : Circ) : (s.post r).circ m = s.circ m := yard_circ (yard_post s r) m

theorem enqueueNew_lu (i : Item) : ((s.enqueueNew n i).circ n).lu = (s.circ n).lu := by simp [State.enqueueNew]

theorem enqueueBack_lu (i : Item) : ((s.enqueueBack n i).circ n).lu = (s.circ n).lu := by simp [State.enqueueBack]

theorem noticeHere_lu (k : NoticeKind) (x : NoticeSource) : ((s.noticeHere n k x).circ n).lu = (s.circ n).lu := by
  unfold State.noticeHere
  split
  · rw [post_circ]
  · exact enqueueNew_lu _

theorem stopNotice_lu (stop : StopOrder) : ((s.stopNotice n t st stop).circ n).lu = (s.circ n).lu := by
  unfold State.stopNotice
  (repeat' split)
  · exact noticeHere_lu _ _
  · rfl
  · rfl
  · rfl

/-- A stop that ends silently takes a capture record with it, and leaves the Line Unit otherwise (R104, R155). -/
theorem silentStop_lu (h : (s.circ n).lu.capture = none) : ((s.silentStop n).circ n).lu = (s.circ n).lu := by
  simp only [State.silentStop]
  (repeat' split)
  · rfl
  · rfl
  · rw [yard_circ (yard_retireTest _ _), circ_updLu_same, leaveService_lu, stopNotice_lu,
      yard_circ (yard_abandonOnly _ _ _), ← h]

theorem faultItem_lu (h : (s.circ n).lu.capture = none) : ((s.faultItem n).circ n).lu = (s.circ n).lu := by
  simp only [State.faultItem]
  (repeat' split)
  · rfl
  · rw [enqueueBack_lu, leaveService_lu]
  · exact leaveService_lu
  · rw [enqueueBack_lu, leaveService_lu, updDelivery_circ]
  · exact silentStop_lu h

theorem faultTold_lu : ((s.faultTold n).circ n).lu = { (s.circ n).lu with
    state := .fault, motor := false, slot := none, idle := none, leadLeft := 0, hold := (s.circ n).lu.faultHold
    capture := none, fltDet := false, brkDet := false } := by
  rw [State.faultTold, post_circ, State.faulted, State.setPoint, circ_updSch_same, circ_updSnd_same,
    faultItem_lu (by rw [circ_updLu_same]), circ_updLu_same]

/-- In FAULT nothing is reached at once (R96, R99, R155). -/
theorem actAtOnce_fault (h : (s.circ n).lu.state = .fault) : s.actAtOnce n = s := by
  simp [State.actAtOnce, State.stopHeld, State.stopAtOnce, State.leavesAtOnce, State.mayLeave, h]

theorem settleLine_fault_lu (h : (s.circ n).lu.state = .fault) :
    ∃ i, ((s.settleLine n).circ n).lu = { (s.circ n).lu with idle := i } := by
  have hpoint : ((s.setPoint n).circ n).lu = (s.circ n).lu := by simp [State.setPoint]
  have hstate : ((s.setPoint n).circ n).lu.state = .fault := by rw [hpoint, h]
  obtain ⟨i, f, hframe⟩ := settleAfter_frame (s := s.setPoint n) (n := n)
  refine ⟨i, ?_⟩
  rw [settleLine_eq, actAtOnce_fault hstate, hframe, circ_setCirc_same, select_unready (.inr (.inl (by simp [hstate]))),
    hpoint]

/-- A hold kept as hold pending at a fault (R152; log entry 18). -/
theorem faultHold_iff {l : LineUnit} (h : l.state = .stopped ∨ l.state = .held ∨ l.state = .broken) :
    l.faultHold = true ↔ l.hold = true ∨
      l.state ≠ .stopped ∧ ∃ c, l.capture = some c ∧ (c.holdTaken = true ∨ c.from_ = .held) := by
  have hbreak : (l.state = .broken ∨ l.state = .held) ↔ l.state ≠ .stopped := by
    rcases h with h | h | h <;> simp [h]
  simp [LineUnit.faultHold, hbreak, Option.any_eq_true]

end

/-! ### LOOP_FAULT by the circuit's state (R152) -/

section
variable {s : State} {n : Circ}

theorem exec_loopFault : exec (.loopFault n) s = .next (s.faultReached n).settleBus := rfl

theorem faultable_iff (c : CState) : c.faultable = true ↔ c ≠ .off ∧ c ≠ .fault := by cases c <;> decide

theorem faultReached_unmet (h : s.readsMarkOn n = true ∨ (s.circ n).lu.state = .off ∨ (s.circ n).lu.state = .fault) :
    s.faultReached n = s := if_neg (by
  rw [Bool.and_eq_true, faultable_iff, Bool.not_eq_true']
  rintro ⟨⟨hoff, hfault⟩, hmark⟩
  rcases h with h | h | h
  · rw [hmark] at h
    cases h
  · exact hoff h
  · exact hfault h)

/-- The space run at the fault limit at least, and the fault detected (R147, R152; log entry 6). -/
def State.faultFound (s : State) (n : Circ) : State := s.updLu n fun l =>
  { l with spaceRun := max l.spaceRun (s.ccfg n).fltLimit, fltDet := true }

theorem faultReached_pacing (hm : s.readsMarkOn n = false)
    (h : (s.circ n).lu.state = .lead ∨ (s.circ n).lu.state = .running) : s.faultReached n = s.faultFound n := by
  have hcond : ((s.circ n).lu.state.faultable && !s.readsMarkOn n) = true := by
    rcases h with h | h <;> simp [h, hm, CState.faultable]
  simp only [State.faultReached, if_pos hcond, circ_updLu_same, Bool.or_eq_true, beq_iff_eq, if_pos h]
  rfl

theorem faultReached_resting (hm : s.readsMarkOn n = false) (h : (s.circ n).lu.state = .stopped ∨
    (s.circ n).lu.state = .held ∨ (s.circ n).lu.state = .broken) :
    s.faultReached n = (s.faultFound n).enterFault n := by
  have hcond : ((s.circ n).lu.state.faultable && !s.readsMarkOn n) = true := by
    rcases h with h | h | h <;> simp [h, hm, CState.faultable]
  have hpacing : ¬ ((s.circ n).lu.state = .lead ∨ (s.circ n).lu.state = .running) := by
    rcases h with h | h | h <;> simp [h]
  simp only [State.faultReached, if_pos hcond, circ_updLu_same, Bool.or_eq_true, beq_iff_eq, if_neg hpacing]
  rfl

theorem slotDone_lead_fault {sl : Slot} (hs : (s.circ n).lu.slot = some sl) (hl : (s.circ n).lu.state = .lead)
    (hf : (s.circ n).lu.fltDet = true) : s.slotDone n =
      State.enterFault (s.updLu n fun l => { l with leadLeft := l.leadLeft - 1, slot := none }) n := by
  simp only [State.slotDone, hs, hl, State.leadSlotDone, circ_updLu_same, hf, if_true]

theorem settleBus_ccfg (m : Circ) : s.settleBus.ccfg m = s.ccfg m := by rw [State.ccfg, settleBus_applied, State.ccfg]

theorem settleBus_pendCirc : s.settleBus.mirror.pendCirc = s.mirror.pendCirc := by
  obtain ⟨l, r, h⟩ := settleBus_mirror s
  rw [h]

end

/-! ### The item in service at a fault (R104, R152) -/

section
variable {s : State} {n : Circ} {t : Tag} {st : Story} {d : Delivery}

theorem faultItem_none (hi : (s.circ n).sch.item = none) : s.faultItem n = s := by simp only [State.faultItem, hi]

theorem faultItem_notice {x : Slot32} (hi : (s.circ n).sch.item = some (.notice x)) :
    s.faultItem n = (s.leaveService n).enqueueBack n (.notice x) := by simp only [State.faultItem, hi]

theorem faultItem_stopping (hi : (s.circ n).sch.item = some (.story t)) (hstop : (s.circ n).sch.stop ≠ .none) :
    s.faultItem n = s.silentStop n := by simp only [State.faultItem, hi, if_neg hstop]

theorem faultItem_story (hi : (s.circ n).sch.item = some (.story t)) (hs : s.story t = some st)
    (hd : st.delivery n = some d) (hstop : (s.circ n).sch.stop = .none) : s.faultItem n =
      (State.leaveService (s.setStory t (some (st.setDelivery n ((s.circ n).faultDelivery st d)))) n).enqueueBack n
        (.story t) := by
  simp only [State.faultItem, hi, if_pos hstop, hs, updDelivery_live _ hs hd]

theorem faultResume_origin {c : Circuit} {p : Nat} (h : c.snd.origin = .text p) :
    c.faultResume st d = (p, c.snd.originDir) := by simp only [Circuit.faultResume, h]

/-- Without a line origin in the text the resume offset goes by the phase (R152). -/
theorem faultResume_phase {c : Circuit} (h : ∀ p, c.snd.origin ≠ .text p) :
    (c.snd.phase = .opening ∨ c.snd.phase = .head ∨ c.snd.phase = .resume →
      c.faultResume st d = (d.resumeOff, d.inDirective)) ∧
    (c.snd.phase = .endLine ∨ c.snd.phase = .blank → c.faultResume st d = (st.textEnd, false)) ∧
    (c.snd.phase = .lostLine ∨ c.snd.phase = .lostNewline ∨ c.snd.phase = .text →
      c.faultResume st d = (c.snd.nextUnsent, c.snd.inDirective)) := by
  unfold Circuit.faultResume
  split
  · rename_i p hp
    exact absurd hp (h p)
  · refine ⟨fun hp => ?_, fun hp => ?_, fun hp => ?_⟩
    · rcases hp with hp | hp | hp <;> simp only [hp]
    · rcases hp with hp | hp <;> simp only [hp]
    · rcases hp with hp | hp | hp <;> simp only [hp]

end

/-- Settles O53: LOOP_FAULT by the state, the entry into FAULT with no part pending and with one, and what becomes of
the item in service. -/
theorem loopFaultIsTaken : Obligations.LoopFaultIsTaken := by
  refine ⟨fun s n => ⟨fun h => ?_, fun hm h => ?_, fun hm h => ?_, fun sl hs hl hf => ?_⟩,
    fun s n h => enterFault_settled h, fun s n => ⟨faultItem_none, fun i => faultItem_notice,
      fun t st d hi hs hd => ⟨faultItem_stopping hi, fun hstop => ?_⟩⟩⟩
  · exact ⟨_, rfl, by rw [faultReached_unmet h]; exact settleBus_sameBlocks (sameBlocks_update s.bus s.mirror s.mem)⟩
  · refine ⟨_, rfl, ?_⟩
    simp only [faultReached_pacing hm h, settleBus_circ, settleBus_stories, settleBus_writer]
    exact ⟨by rw [State.faultFound, circ_updLu_same], fun m hm => circ_updLu_ne s (Ne.symm hm) _, rfl, rfl⟩
  · refine ⟨_, rfl, by rw [faultReached_resting hm h]; rfl, fun hp => ?_, fun hp => ?_⟩ <;>
      rw [faultReached_resting hm h]
    · have hlu : ((s.faultFound n).circ n).lu = _ := congrArg Circuit.lu (circ_updLu_same s n _)
      have hfault : (((s.faultFound n).faultTold n).circ n).lu.state = .fault := by rw [faultTold_lu]
      obtain ⟨i, hi⟩ := settleLine_fault_lu hfault
      rw [settleBus_circ, enterFault_settled (s := s.faultFound n) hp, hi, faultTold_lu, hlu]
      exact ⟨rfl, rfl, rfl, rfl, faultHold_iff h⟩
    · have hparts := enterFault_pending (s := s.faultFound n) hp
      rw [settleBus_ccfg, settleBus_pendCirc, parts_ccfg hparts, parts_pendCirc hparts, examineCirc_pendCirc,
        examineCirc_ccfg, if_pos rfl, staging_of_outer outer_faultTold]
      exact ⟨rfl, rfl⟩
  · exact congrArg (fun u : State => Host.Outcome.next u.settleBus) (slotDone_lead_fault hs hl hf)
  · refine ⟨((s.circ n).faultResume st d).1, ((s.circ n).faultResume st d).2, faultItem_story hi hs hd hstop,
      fun p hp => by rw [faultResume_origin hp]; exact ⟨rfl, rfl⟩, fun hp => ?_⟩
    obtain ⟨hopening, hclosing, htext⟩ := faultResume_phase (st := st) (d := d) hp
    exact ⟨fun h => by rw [hopening h]; exact ⟨rfl, rfl⟩, fun h => by rw [hclosing h]; exact ⟨rfl, rfl⟩,
      fun h => by rw [htext h]; exact ⟨rfl, rfl⟩⟩

end Sys2Proof.Machine
end

section
namespace Sys2Proof.Machine

/-! ### What a circuit entry makes of the line (R124, R130, R138) -/

section
variable {c : CircCfg}

theorem charTime_stop0 (h : c.stopCode = 0) : c.charTime = 7 * c.elem := by
  simp only [CircCfg.charTime, CircCfg.stopLen, h]
  omega

/-- A stop of one and a half elements, rounded down (R130). -/
theorem charTime_stop1 (h : c.stopCode = 1) : 2 * c.charTime = 15 * c.elem - c.elem % 2 := by
  simp only [CircCfg.charTime, CircCfg.stopLen, h]
  omega

theorem charTime_stop2 (h : 2 ≤ c.stopCode) : c.charTime = 8 * c.elem := by
  have hstop : c.stopLen = 2 * c.elem := by
    unfold CircCfg.stopLen
    split
    · omega
    · omega
    · rfl
  rw [CircCfg.charTime, hstop]
  omega

theorem idleTicks_zero_iff : c.idleTicks = 0 ↔ c.idleCode = 0 := by
  unfold CircCfg.idleTicks
  split_ifs <;> omega

theorem idleTicks_seconds (hlo : 1 ≤ c.idleCode) (hhi : c.idleCode ≤ 60) : c.idleTicks = c.idleCode * (2 * 76800) := by
  rw [CircCfg.idleTicks, if_neg (by omega), if_pos hhi]

theorem idleTicks_quarters (hlo : 61 ≤ c.idleCode) (hhi : c.idleCode ≤ 200) :
    c.idleTicks = (c.idleCode - 60) * (15 * 76800) := by
  rw [CircCfg.idleTicks, if_neg (by omega), if_neg (by omega), if_pos hhi]

theorem idleTicks_minutes (hlo : 201 ≤ c.idleCode) : c.idleTicks = (c.idleCode - 200) * (300 * 76800) := by
  rw [CircCfg.idleTicks, if_neg (by omega), if_neg (by omega), if_neg (by omega)]

end

section
variable (w e : Nat)

theorem clampWidth_eq : clampWidth w = if w = 0 then 0 else if w < 16 then 16 else if 72 < w then 72 else w := by
  unfold clampWidth
  split_ifs <;> omega

theorem clampWidth_range : clampWidth w = 0 ∨ 16 ≤ clampWidth w ∧ clampWidth w ≤ 72 := by
  unfold clampWidth
  split_ifs <;> omega

/-- A field is clamped to its range: as written inside it, the nearer end outside. -/
theorem max_min_eq {lo hi : Nat} (h : lo ≤ hi) : max lo (min hi e) = if e < lo then lo else if hi < e then hi else e := by
  split_ifs <;> omega

end

/-- Settles O45, field by field of the staged entry. -/
theorem lineTimes : Obligations.LineTimes := by
  intro m n c o w e g k
  have helem : c.elem = max 256 (min 4095 e) := rfl
  have hidle : c.idleCode ≤ 250 := Nat.min_le_left _ _
  refine ⟨clampWidth_eq w, max_min_eq e (by decide), min_def_lt 3 g, min_def_lt 3 k, bne_iff_ne, clampWidth_range w,
    by omega, by omega, Nat.min_le_left _ _, Nat.min_le_left _ _, charTime_stop0, charTime_stop1, charTime_stop2,
    idleTicks_zero_iff, idleTicks_seconds, idleTicks_quarters, fun hlo => ⟨idleTicks_minutes hlo, ?_⟩⟩
  rw [idleTicks_minutes hlo]
  omega

end Sys2Proof.Machine
end

section
namespace Sys2Proof.Machine

/-! ### The copy code (R110) -/

section
variable {b : Byte}

theorem placeOf_none {l : List Byte} (h : b ∉ l) (i : Nat) : placeOf b l i = none := by
  induction l generalizing i with
  | nil => rfl
  | cons x xs ih =>
    rw [List.mem_cons, not_or] at h
    rw [placeOf, if_neg (Ne.symm h.1), ih h.2]

theorem tokenOf_space (h : b.toNat = 0x20) : tokenOf b = .space := by simp [tokenOf, h]
theorem tokenOf_newline (h : b.toNat = 0x0A) : tokenOf b = .newline := by simp [tokenOf, h]
theorem tokenOf_take (h : b.toNat = 0x04) : tokenOf b = .take := by simp [tokenOf, h]
theorem tokenOf_kill (h : b.toNat = 0x18) : tokenOf b = .kill := by simp [tokenOf, h]

theorem tokenOf_skip (h : b.toNat < 0x20) (hnl : b.toNat ≠ 0x0A) (htake : b.toNat ≠ 0x04) (hkill : b.toNat ≠ 0x18) :
    tokenOf b = .skip := by
  simp only [tokenOf]
  rw [if_neg (by omega), if_neg hnl, if_neg htake, if_neg hkill, if_pos h]

theorem tokenOf_upper (hlo : 0x41 ≤ b.toNat) (hhi : b.toNat ≤ 0x5A) :
    tokenOf b = .print { plane := .ltr, code := planeCode (b.toNat - 0x41), subst := false } := by
  simp only [tokenOf]
  rw [if_neg (by omega), if_neg (by omega), if_neg (by omega), if_neg (by omega), if_neg (by omega),
    if_pos ⟨hlo, hhi⟩]

theorem tokenOf_lower (hlo : 0x61 ≤ b.toNat) (hhi : b.toNat ≤ 0x7A) :
    tokenOf b = .print { plane := .ltr, code := planeCode (b.toNat - 0x61), subst := false } := by
  simp only [tokenOf]
  rw [if_neg (by omega), if_neg (by omega), if_neg (by omega), if_neg (by omega), if_neg (by omega),
    if_neg (by omega), if_pos ⟨hlo, hhi⟩]

theorem tokenOf_national (hlo : 0xC0 ≤ b.toNat) (hhi : b.toNat ≤ 0xD9) :
    tokenOf b = .print { plane := .nat, code := planeCode (b.toNat - 0xC0), subst := false } := by
  simp only [tokenOf]
  rw [if_neg (by omega), if_neg (by omega), if_neg (by omega), if_neg (by omega), if_neg (by omega),
    if_neg (by omega), if_neg (by omega), if_pos ⟨hlo, hhi⟩]

theorem tokenOf_figure : ∀ i < 26, tokenOf (figBytes.getD i 0) =
    .print { plane := .fig, code := planeCode i, subst := false } := by decide

/-- A byte above the space that is of no plane is printed as a ? of the figures plane (R110, R122). -/
theorem tokenOf_unrepresentable (hlo : 0x21 ≤ b.toNat) (hup : ¬(0x41 ≤ b.toNat ∧ b.toNat ≤ 0x5A))
    (hlow : ¬(0x61 ≤ b.toNat ∧ b.toNat ≤ 0x7A)) (hnat : ¬(0xC0 ≤ b.toNat ∧ b.toNat ≤ 0xD9)) (hfig : b ∉ figBytes) :
    tokenOf b = .print substChar := by
  simp only [tokenOf, placeOf_none hfig]
  rw [if_neg (by omega), if_neg (by omega), if_neg (by omega), if_neg (by omega), if_neg (by omega), if_neg hup,
    if_neg hlow, if_neg hnat]

theorem svcTok_print {c : PChar} (h : tokenOf b = .print c) : svcTok b = .print { c with subst := false } := by
  simp only [svcTok, h]

theorem svcTok_space (h : tokenOf b = .space) : svcTok b = .space := by simp only [svcTok, h]

theorem svcTok_other (hp : ∀ c, tokenOf b ≠ .print c) (hs : tokenOf b ≠ .space) : svcTok b = .skip := by
  unfold svcTok
  split
  · next c h => exact absurd h (hp c)
  · next h => exact absurd h hs
  · rfl

end

/-! ### Numbers and fields of a service line (R125) -/

section
variable {ds : List Nat}

/-- The byte of a decimal digit. -/
def digitByte (d : Nat) : Byte := BitVec.ofNat 8 (0x30 + d)

/-- The four digits of a number before its last. -/
def leadDigits (k : Nat) : List Nat := [k / 10000 % 10, k / 1000 % 10, k / 100 % 10, k / 10 % 10]

/-- The digits of a number in decimal: leading zeros dropped, but for the last digit. -/
def decimalDigits (k : Nat) : List Nat := (leadDigits k).dropWhile (· == 0) ++ [k % 10]

theorem decimal_eq (k : Nat) : decimal k = (decimalDigits k).map digitByte := by
  rw [decimalDigits, List.map_append]
  rfl

theorem digitByte_toNat {d : Nat} (h : d < 10) : (digitByte d).toNat = 0x30 + d := by
  rw [digitByte, BitVec.toNat_ofNat]
  omega

theorem isDigit_digitByte {d : Nat} (h : d < 10) : isDigit (digitByte d) = true := by
  rw [isDigit_iff, digitByte_toNat h]
  omega

theorem decimalDigits_lt {k d : Nat} (h : d ∈ decimalDigits k) : d < 10 := by
  have hlead : ∀ d ∈ leadDigits k, d < 10 := by
    simp only [leadDigits, List.forall_mem_cons, List.not_mem_nil, false_imp_iff, implies_true, and_true]
    omega
  rcases List.mem_append.1 h with h | h
  · exact hlead d ((List.dropWhile_sublist _).mem h)
  · rw [List.mem_singleton.1 h]
    omega

/-- The value of a run of digits, most significant first. -/
def digitsNumber (v : Nat) (ds : List Nat) : Nat := ds.foldl (fun v d => 10 * v + d) v

theorem digitsValue_map (h : ∀ d ∈ ds, d < 10) : digitsValue (ds.map digitByte) = digitsNumber 0 ds := by
  rw [digitsValue, List.foldl_map, digitsNumber]
  refine List.foldl_ext _ _ _ fun v d hd => ?_
  rw [digitByte_toNat (h d hd), Nat.add_sub_cancel_left]

theorem digitsNumber_dropWhile : digitsNumber 0 (ds.dropWhile (· == 0)) = digitsNumber 0 ds := by
  induction ds with
  | nil => rfl
  | cons d ds ih =>
    cases d with
    | zero => exact ih
    | succ d => rfl

theorem digitsNumber_decimalDigits {k : Nat} (h : k < 100000) : digitsNumber 0 (decimalDigits k) = k := by
  have happ : digitsNumber 0 (decimalDigits k) =
      10 * digitsNumber 0 ((leadDigits k).dropWhile (· == 0)) + k % 10 := List.foldl_append
  rw [happ, digitsNumber_dropWhile]
  simp only [leadDigits, digitsNumber, List.foldl_cons, List.foldl_nil]
  omega

/-- A number other than 0 begins with a digit other than 0. -/
theorem decimalDigits_head {k : Nat} (h : k < 100000) (hk : k ≠ 0) : (decimalDigits k).head? ≠ some 0 := by
  intro hhead
  cases hd : (leadDigits k).dropWhile (· == 0) with
  | nil =>
    have hlast : k % 10 = 0 := by simpa [decimalDigits, hd] using hhead
    have hzero : ∀ d ∈ leadDigits k, d = 0 := by simpa using List.dropWhile_eq_nil_iff.1 hd
    simp only [leadDigits, List.forall_mem_cons] at hzero
    omega
  | cons d ds =>
    have hnot := List.head?_dropWhile_not (· == 0) (leadDigits k)
    rw [decimalDigits, hd, List.cons_append, List.head?_cons, Option.some.injEq] at hhead
    rw [hd, List.head?_cons, hhead] at hnot
    exact absurd hnot (by decide)

theorem decimal_isDigit {k : Nat} {x : Byte} (h : x ∈ decimal k) : isDigit x = true := by
  rw [decimal_eq] at h
  obtain ⟨d, hd, rfl⟩ := List.mem_map.1 h
  exact isDigit_digitByte (decimalDigits_lt hd)

theorem digitsValue_decimal {k : Nat} (h : k < 100000) : digitsValue (decimal k) = k := by
  rw [decimal_eq, digitsValue_map fun _ => decimalDigits_lt, digitsNumber_decimalDigits h]

theorem decimal_head {k : Nat} (h : k < 100000) (hk : k ≠ 0) : (decimal k).head? ≠ some 0x30 := by
  rw [decimal_eq, List.head?_map]
  intro hhead
  obtain ⟨d, hd, hzero⟩ := Option.map_eq_some_iff.1 hhead
  have hlt : d < 10 := decimalDigits_lt (List.mem_of_mem_head? hd)
  have hval : 0x30 + d = 0x30 := by rw [← digitByte_toNat hlt, hzero]; rfl
  obtain rfl : d = 0 := by omega
  exact decimalDigits_head h hk hd

theorem joinFields_cons {f : List Byte} (h : f ≠ []) (fs : List (List Byte)) : joinFields (f :: fs) =
    if joinFields fs = [] then f else f ++ 0x20 :: joinFields fs := by
  rw [joinFields, if_neg h]
  split
  · next hr => rw [if_pos hr]
  · next hr => rw [if_neg (by simpa using hr)]

end
end Sys2Proof.Machine
end

section
namespace Sys2Proof.Machine

/-! ### The read position and the pending spaces (R110, R115, R123) -/

section
variable {e : TextEnv} {d : Sender} {k : Nat}

theorem syncUnsent_eq (d : Sender) : d.syncUnsent =
    { d with nextUnsent := if d.held = [] then d.readPos else d.nextUnsent } := by
  simp only [Sender.syncUnsent, List.isEmpty_iff]
  split <;> rfl

theorem senderAdvance_eq (d : Sender) (size : Nat) : d.advance size = { d with
    readPos := (d.readPos + 1) % size
    nextUnsent := if d.held = [] then (d.readPos + 1) % size else d.nextUnsent } :=
  syncUnsent_eq _

theorem advance_plan (d : Sender) (size : Nat) (pl : List Placed) :
    { d.advance size with plan := pl } = Sender.advance { d with plan := pl } size := by
  simp only [senderAdvance_eq]

theorem addSpace_eq (column pend : Nat) (hard : Bool) :
    addSpace column pend hard = if column = 0 ∧ hard = false then pend else satInc 255 pend := by
  simp [addSpace]

theorem heldTooLong_iff (width len : Nat) :
    heldTooLong width len = true ↔ width = 0 ∧ 73 ≤ len ∨ width ≠ 0 ∧ width < len := by
  unfold heldTooLong
  split <;> simp_all

/-- The held word placed: what R116 places leaves the held word, and no space is pending. -/
theorem placeHeld_fields (e : TextEnv) (d : Sender) (ended : Bool) :
    let p := placeWord e.cfg d.column d.pend ended .fold d.held
    let x := d.placeHeld e ended
    x.plan = p.1 ∧ x.held = d.held.drop p.2 ∧ x.pend = 0 ∧ x.readPos = d.readPos ∧ x.column = d.column ∧
      x.nextUnsent = if d.held.drop p.2 = [] then d.readPos else (d.nextUnsent + p.2) % e.size := by
  simp only [Sender.placeHeld, syncUnsent_eq, and_self]

/-! ### What a token does with no word held, and a printing character (R115, R119 to R121) -/

theorem takeToken_newline_bare (hc : d.column = 0) (hb : d.bare = true) :
    d.takeToken e .newline = (Sender.advance { d with pend := 0 } e.size, none) := by
  simp [Sender.takeToken, hc, hb]

theorem takeToken_newline_placed (h : d.column ≠ 0 ∨ d.bare = false) : d.takeToken e .newline =
    (Sender.advance { d with pend := 0, plan := placeNewline e.cfg.fill .hard } e.size, some .ready) := by
  have hif : (d.column = 0 && d.bare) = false := by rcases h with h | h <;> simp [h]
  rw [← advance_plan { d with pend := 0 }, Sender.takeToken, hif]
  rfl

theorem takeToken_take_read (hc : d.column = 0) :
    d.takeToken e .take = (Sender.advance { d with pend := 0 } e.size, some .takeRead) := by
  simp only [Sender.takeToken, hc, if_true]

theorem takeToken_take_placed (hc : d.column ≠ 0) : d.takeToken e .take =
    (Sender.advance { d with pend := 0, plan := placeNewline e.cfg.fill .take } e.size, some .ready) := by
  rw [← advance_plan { d with pend := 0 }, Sender.takeToken, if_neg hc]

/-! ### One reading of the text (R110, R117, R118, R121) -/

/-- The replay is not over at a word's end, and the held word may grow: the text is read. -/
structure Sender.Reads (d : Sender) (e : TextEnv) : Prop where
  going : d.held ≠ [] ∨ d.replayOver e.size = false
  short : heldTooLong e.cfg.width d.held.length = false

theorem going_test (h : d.held ≠ [] ∨ d.replayOver e.size = false) :
    (d.held.isEmpty && d.replayOver e.size) = false := by
  rcases h with h | h <;> simp [h]

theorem textStep_replayed (hh : d.held = []) (hr : d.replayOver e.size = true) :
    textStep e (k + 1) d = (d, .replayed) := by
  simp [textStep, hh, hr]

theorem textStep_tooLong (h : d.held ≠ [] ∨ d.replayOver e.size = false)
    (hl : heldTooLong e.cfg.width d.held.length = true) : textStep e (k + 1) d = (d.placeHeld e false, .ready) := by
  simp [textStep, going_test h, hl]

theorem textStep_end (h : d.Reads e) (hend : d.readPos = e.textEnd) : textStep e (k + 1) d =
    if e.isOpen then (d, .nothing)
    else if d.held = [] then ({ d with pend := 0 }, .atEnd)
    else (d.placeHeld e true, .ready) := by
  simp [textStep, going_test h.going, h.short, hend]

theorem textStep_missing (h : d.Reads e) (hend : d.readPos ≠ e.textEnd) (hl : lookAt d.readPos e.look = .missing) :
    textStep e (k + 1) d = (d, .nothing) := by
  simp [textStep, going_test h.going, h.short, hend, hl]

/-- The byte b stands at the read position of a Sender that reads on. -/
structure Sender.Meets (d : Sender) (e : TextEnv) (b : Byte) : Prop extends d.Reads e where
  notEnd : d.readPos ≠ e.textEnd
  byte : lookAt d.readPos e.look = .byte b

variable {b : Byte}

/-- A digit of a skipped directive is passed over (R121). -/
theorem textStep_digit (h : d.Meets e b) (hd : d.inDirective = true) (hb : isDigit b = true) :
    textStep e (k + 1) d = textStep e k (d.advance e.size) := by
  simp [textStep, going_test h.going, h.short, h.notEnd, h.byte, hd, hb]

/-- The byte does not belong to a skipped directive, and it belongs to the held word or none is held (R110, R121). -/
structure Sender.Takes (d : Sender) (e : TextEnv) (b : Byte) : Prop extends d.Meets e b where
  outside : d.inDirective = false ∨ isDigit b = false
  taken : (tokenOf b).prints = true ∨ d.held = []

theorem outside_test (h : d.inDirective = false ∨ isDigit b = false) : (d.inDirective && isDigit b) = false := by
  rcases h with h | h <;> simp [h]

theorem Sender.Takes.test (h : d.Takes e b) : ((tokenOf b).prints || d.held.isEmpty) = true := by
  simpa using h.taken

theorem textStep_goesOn {y : Sender} (h : d.Takes e b)
    (ht : Sender.takeToken { d with inDirective := false } e (tokenOf b) = (y, none)) :
    textStep e (k + 1) d = textStep e k y := by
  simp [textStep, going_test h.going, h.short, h.notEnd, h.byte, outside_test h.outside, h.test, ht]

theorem textStep_stops {y : Sender} {g : TextSig} (h : d.Takes e b)
    (ht : Sender.takeToken { d with inDirective := false } e (tokenOf b) = (y, some g)) :
    textStep e (k + 1) d = (y, g) := by
  simp [textStep, going_test h.going, h.short, h.notEnd, h.byte, outside_test h.outside, h.test, ht]

/-- A byte that is no printing character ends the held word and stays to be read (R115). -/
theorem textStep_wordEnds (h : d.Meets e b) (hd : d.inDirective = false ∨ isDigit b = false)
    (hp : ∀ c, tokenOf b ≠ .print c) (hh : d.held ≠ []) :
    textStep e (k + 1) d = (Sender.placeHeld { d with inDirective := false } e true, .ready) := by
  have hprints : ((tokenOf b).prints || d.held.isEmpty) = false := by
    have : (tokenOf b).prints = false := by
      unfold Token.prints
      split
      · next c hc => exact absurd hc (hp c)
      · rfl
    simp [this, hh]
  simp [textStep, going_test h.going, h.short, h.notEnd, h.byte, outside_test hd, hprints]

end
end Sys2Proof.Machine
end

section
namespace Sys2Proof.Machine

/-! ### The bytes of a service line and its packing (R125, R126) -/

section
variable {s : State} {n : Circ} {t : Tag} {st : Story}

theorem svcLine_story (hi : (s.circ n).sch.item = some (.story t)) (hs : s.story t = some st) :
    s.svcLine n = s.storyLine st (s.circ n).snd.phase (s.circ n).sch.stop.kind := by
  simp only [State.svcLine, hi, hs]

theorem svcLine_notice {i : Slot32} {x : Notice} (hi : (s.circ n).sch.item = some (.notice i))
    (hx : s.notice i = some x) : s.svcLine n = s.noticeLine x := by
  simp only [State.svcLine, hi, hx]

theorem svcStep_space (cfg : CircCfg) (d : Sender) (ts : List SvcTok) : svcStep cfg d (.space :: ts) =
    svcStep cfg { d with pend := if d.column = 0 ∧ d.hard = false then d.pend else satInc 255 d.pend } ts := by
  rw [svcStep, addSpace_eq]

/-! ### The requests of a phase (R127, R129) -/

theorem beginSvc_circ : (s.beginSvc n).circ n = { s.circ n with snd := { (s.circ n).snd with
    svc := some ((s.svcLine n).map svcTok), origin := .svc (s.svcKind n), hard := false, pend := 0
    stopBegun := (s.circ n).snd.stopBegun || (s.circ n).snd.phase == .stopLine } } :=
  circ_updSnd_same _ _ _

/-- A phase that sends a service line. -/
def Phase.isLine (p : Phase) : Prop :=
  p = .head ∨ p = .resume ∨ p = .endLine ∨ p = .notice ∨ p = .stopLine ∨ p = .lostLine

theorem askTurn_beginSvc {i : Item} (hi : (s.circ n).sch.item = some i) (hp : (s.circ n).snd.phase.isLine)
    (hsvc : (s.circ n).snd.svc = none) : s.askTurn n = (s.beginSvc n, true) := by
  rcases hp with h | h | h | h | h | h <;> simp only [State.askTurn, hi, h, hsvc]

theorem askTurn_svc {i : Item} {ts : List SvcTok} (hi : (s.circ n).sch.item = some i)
    (hp : (s.circ n).snd.phase.isLine) (hsvc : (s.circ n).snd.svc = some ts) :
    s.askTurn n = (s.updSnd n fun y => svcStep (s.ccfg n) y ts, false) := by
  rcases hp with h | h | h | h | h | h <;> simp only [State.askTurn, hi, h, hsvc]

theorem openLine_opening (hp : (s.circ n).snd.phase = .opening) :
    s.openLine n = s.updSnd n fun y => { y with phase := s.openerPhase n } := if_pos hp

theorem openerPhase_notice {i : Slot32} (hi : (s.circ n).sch.item = some (.notice i)) :
    s.openerPhase n = .notice := by
  simp only [State.openerPhase, hi]

theorem openerPhase_story {d : Delivery} (hi : (s.circ n).sch.item = some (.story t)) (hs : s.story t = some st)
    (hd : st.delivery n = some d) : s.openerPhase n = if d.headSent then .resume else .head := by
  simp only [State.openerPhase, hi, hs, hd]

/-- At column 0 an item needs no opening newline. -/
theorem askTurn_opening_zero {i : Item} (hi : (s.circ n).sch.item = some i) (hp : (s.circ n).snd.phase = .opening)
    (hc : (s.circ n).snd.column = 0) :
    s.askTurn n = (s.updSnd n fun y => { y with phase := s.openerPhase n }, true) := by
  simp only [State.askTurn, hi, hp, hc, if_true, openLine_opening hp]

theorem askTurn_opening_above {i : Item} (hi : (s.circ n).sch.item = some i) (hp : (s.circ n).snd.phase = .opening)
    (hc : (s.circ n).snd.column ≠ 0) :
    s.askTurn n = (s.updSnd n fun y => { y with plan := placeNewline (s.ccfg n).fill .opening }, false) := by
  simp only [State.askTurn, hi, hp, hc, if_false]

theorem endLine_begun :
    (s.setPhase n .endLine).updSnd n (fun y => { y with svc := none }) =
      s.updSnd n fun y => { y with phase := .endLine, svc := none } := updSnd_updSnd _ _

theorem askTurn_closing_zero {i : Item} (hi : (s.circ n).sch.item = some i) (hp : (s.circ n).snd.phase = .closing)
    (hc : (s.circ n).snd.column = 0) :
    s.askTurn n = (s.updSnd n fun y => { y with phase := .endLine, svc := none }, true) := by
  simp only [State.askTurn, hi, hp, hc, if_true, endLine_begun]

theorem askTurn_closing_above {i : Item} (hi : (s.circ n).sch.item = some i) (hp : (s.circ n).snd.phase = .closing)
    (hc : (s.circ n).snd.column ≠ 0) :
    s.askTurn n = (s.updSnd n fun y => { y with plan := placeNewline (s.ccfg n).fill .closing }, false) := by
  simp only [State.askTurn, hi, hp, hc, if_false]

theorem askTurn_blank {i : Item} (hi : (s.circ n).sch.item = some i) (hp : (s.circ n).snd.phase = .blank) :
    s.askTurn n = (s.updSnd n fun y => { y with plan := placeBlank }, false) := by
  simp only [State.askTurn, hi, hp]

section
variable {y : Sender} (hi : (s.circ n).sch.item = some (.story t)) (hp : (s.circ n).snd.phase = .text)
  (hs : s.story t = some st)
include hi hp hs

theorem askTurn_ready (hr : textStep (s.textEnv n st) 128 (s.circ n).snd = (y, .ready)) :
    s.askTurn n = (s.afterRead n (s.fsize st.feed) y, false) := by
  simp only [State.askTurn, hi, hp, hs, hr]

theorem askTurn_nothing (hr : textStep (s.textEnv n st) 128 (s.circ n).snd = (y, .nothing)) :
    s.askTurn n = (s.afterRead n (s.fsize st.feed) y, (s.afterRead n (s.fsize st.feed) y).actsAtOnce n) := by
  simp only [State.askTurn, hi, hp, hs, hr]

theorem askTurn_atEnd (hr : textStep (s.textEnv n st) 128 (s.circ n).snd = (y, .atEnd)) :
    s.askTurn n = ((s.afterRead n (s.fsize st.feed) y).storyEnd n st, true) := by
  simp only [State.askTurn, hi, hp, hs, hr]

end

/-- Without a stop order, or in a story whose end is its own, the end line follows the text (R118). -/
theorem storyEnd_closing (h : (s.circ n).sch.stop = .none ∨ st.state = .open_ ∨ st.state = .closed) :
    s.storyEnd n st = s.updSnd n fun z => { z with phase := .closing } := by
  refine if_neg ?_
  rcases h with h | h | h <;> simp [h]

/-! ### What the last newline of a line leads to (R127, R129) -/

theorem nlNext_opening (hp : (s.circ n).snd.phase = .opening) :
    s.nlNext n .opening = s.updSnd n fun y => { y with phase := s.openerPhase n } := openLine_opening hp

theorem nlNext_closing : s.nlNext n .closing = s.updSnd n fun y => { y with phase := .endLine, svc := none } :=
  endLine_begun

theorem nlNext_head {d : Delivery} (hi : (s.circ n).sch.item = some (.story t)) (hs : s.story t = some st)
    (hd : st.delivery n = some d) (hp : (s.circ n).snd.phase = .head) : s.nlNext n .svcLast =
      State.enterText (s.setStory t (some (st.setDelivery n { d with headSent := true }))) n := by
  simp only [State.nlNext, State.svcDone, hp, State.headDone, tag_of_item hi, updDelivery_live _ hs hd]

theorem nlNext_resume (hp : (s.circ n).snd.phase = .resume) : s.nlNext n .svcLast = s.enterText n := by
  simp only [State.nlNext, State.svcDone, hp]

theorem nlNext_endLine (hp : (s.circ n).snd.phase = .endLine) :
    s.nlNext n .svcLast = s.updSnd n fun y => { y with phase := .blank, svc := none } := by
  simp only [State.nlNext, State.svcDone, hp, State.setPhase, updSnd_updSnd]

theorem nlNext_notice {i : Slot32} (hi : (s.circ n).sch.item = some (.notice i))
    (hp : (s.circ n).snd.phase = .notice) : s.nlNext n .svcLast = (s.leaveService n).releaseRef i := by
  simp only [State.nlNext, State.svcDone, hp, State.noticeSent, hi]

end
end Sys2Proof.Machine
end

section
namespace Sys2Proof.Machine

/-! ### The column and the characters of what is placed (R114, R116) -/

section
variable {c W : Nat} {l r : List Placed}

theorem printsOf_append (l r : List Placed) : printsOf (l ++ r) = printsOf l ++ printsOf r := by
  induction l with
  | nil => rfl
  | cons x xs ih =>
    obtain ⟨sym, m⟩ := x
    cases sym <;> simp [printsOf, ih]

theorem columnAfter_append (c : Nat) (l r : List Placed) :
    columnAfter c (l ++ r) = columnAfter (columnAfter c l) r := by
  induction l generalizing c with
  | nil => rfl
  | cons x xs ih =>
    obtain ⟨sym, m⟩ := x
    cases sym <;> simp only [List.cons_append, columnAfter, ih]

theorem columnAfter_le (c : Nat) (l : List Placed) : columnAfter c l ≤ c + l.length := by
  induction l generalizing c with
  | nil => exact Nat.le_refl _
  | cons x xs ih =>
    obtain ⟨sym, m⟩ := x
    rw [List.length_cons]
    cases sym <;> exact (ih _).trans (by omega)

/-- On the way through what is placed the column never passes W. -/
def StaysWithin (W c : Nat) (l : List Placed) : Prop := ∀ k, columnAfter c (l.take k) ≤ W

theorem staysWithin_of_length (h : c + l.length ≤ W) : StaysWithin W c l := fun k =>
  (columnAfter_le _ _).trans ((Nat.add_le_add_left (List.length_take_le' k l) c).trans h)

theorem StaysWithin.append (hl : StaysWithin W c l) (hr : StaysWithin W (columnAfter c l) r) :
    StaysWithin W c (l ++ r) := by
  intro k
  rw [List.take_append, columnAfter_append]
  rcases Nat.le_total k l.length with h | h
  · rw [Nat.sub_eq_zero_of_le h]
    exact hl k
  · rw [List.take_of_length_le h]
    exact hr _

/-- A character of a newline prints nothing. -/
def Sym.still (x : Sym) : Prop := x = .cr ∨ x = .lf ∨ x = .fill

theorem printsOf_still (h : ∀ x ∈ l, x.sym.still) : printsOf l = [] := by
  induction l with
  | nil => rfl
  | cons x xs ih =>
    have hxs := ih fun y hy => h y (List.mem_cons_of_mem _ hy)
    obtain ⟨sym, m⟩ := x
    rcases h _ List.mem_cons_self with hx | hx | hx <;> cases hx <;> exact hxs

theorem columnAfter_still (h : ∀ x ∈ l, x.sym.still) (c : Nat) : columnAfter c l ≤ c := by
  induction l generalizing c with
  | nil => exact Nat.le_refl _
  | cons x xs ih =>
    have hxs := ih fun y hy => h y (List.mem_cons_of_mem _ hy)
    obtain ⟨sym, m⟩ := x
    rcases h _ List.mem_cons_self with hx | hx | hx <;> cases hx
    · exact (hxs 0).trans (Nat.zero_le c)
    · exact hxs c
    · exact hxs c

theorem staysWithin_still (h : ∀ x ∈ l, x.sym.still) (hc : c ≤ W) : StaysWithin W c l := fun _ =>
  (columnAfter_still (fun x hx => h x (List.mem_of_mem_take hx)) c).trans hc

/-! ### Spaces, words and newlines placed (R114, R116) -/

theorem placeFills_still (why : NlCause) (k : Nat) : ∀ x ∈ placeFills why k, x.sym.still := by
  induction k using placeFills.induct with
  | case1 => exact fun x hx => absurd hx List.not_mem_nil
  | case2 => exact fun x hx => by rw [List.mem_singleton.1 hx]; exact .inr (.inr rfl)
  | case3 k hk ih =>
    rw [placeFills]
    · exact List.forall_mem_cons.2 ⟨.inr (.inr rfl), ih⟩
    · exact hk

theorem placeNewline_still (fill : Nat) (why : NlCause) : ∀ x ∈ placeNewline fill why, x.sym.still := by
  refine List.forall_mem_cons.2 ⟨.inl rfl, ?_⟩
  split
  · exact List.forall_mem_cons.2 ⟨.inr (.inl rfl), fun x hx => absurd hx List.not_mem_nil⟩
  · exact List.forall_mem_cons.2 ⟨.inr (.inl rfl), placeFills_still why fill⟩

theorem length_placeSpaces (n : Nat) : (placeSpaces n).length = n := List.length_replicate

theorem printsOf_placeSpaces (n : Nat) : printsOf (placeSpaces n) = [] := by
  induction n with
  | zero => rfl
  | succ n ih => exact ih

theorem columnAfter_placeSpaces (c n : Nat) : columnAfter c (placeSpaces n) = c + n := by
  induction n generalizing c with
  | zero => rfl
  | succ n ih => exact (ih (c + 1)).trans (by omega)

variable (ended : Bool) (w : List PChar)

theorem length_placeChars : (placeChars ended w).length = w.length := by
  induction w using placeChars.induct with
  | case1 => rfl
  | case2 => rfl
  | case3 x xs hxs ih => rw [placeChars, List.length_cons, ih, List.length_cons]; exact hxs

theorem printsOf_placeChars : printsOf (placeChars ended w) = w := by
  induction w using placeChars.induct with
  | case1 => rfl
  | case2 => rfl
  | case3 x xs hxs ih => rw [placeChars, printsOf, ih]; exact hxs

theorem columnAfter_placeChars (c : Nat) : columnAfter c (placeChars ended w) = c + w.length := by
  induction w using placeChars.induct generalizing c with
  | case1 => rfl
  | case2 => rfl
  | case3 x xs hxs ih =>
    rw [placeChars, columnAfter, ih, List.length_cons]
    · omega
    · exact hxs

end

/-! ### The four rows of R116 -/

section
variable {cfg : CircCfg} {c sp : Nat} {ended : Bool} {why : NlCause} {w : List PChar}

theorem placeWord_fits (h : cfg.width = 0 ∨ c + sp + w.length ≤ cfg.width) :
    placeWord cfg c sp ended why w = (placeSpaces sp ++ placeChars ended w, w.length) := if_pos h

/-- The circuit has a width, and the word with the pending spaces does not fit the rest of the line. -/
def PastWidth (cfg : CircCfg) (c sp : Nat) (w : List PChar) : Prop :=
  cfg.width ≠ 0 ∧ cfg.width < c + sp + w.length

theorem PastWidth.not_fits (h : PastWidth cfg c sp w) : ¬(cfg.width = 0 ∨ c + sp + w.length ≤ cfg.width) := by
  obtain ⟨hw, hlt⟩ := h
  omega

theorem placeWord_newline (h : PastWidth cfg c sp w) (hc : 0 < c) :
    placeWord cfg c sp ended why w = (placeNewline cfg.fill why, 0) := by
  rw [placeWord, if_neg h.not_fits, if_pos hc]

theorem placeWord_alone (h : PastWidth cfg c sp w) (hc : c = 0) (hl : w.length ≤ cfg.width) :
    placeWord cfg c sp ended why w = (placeChars ended w, w.length) := by
  rw [placeWord, if_neg h.not_fits, if_neg (by omega), if_pos hl]

theorem placeWord_split (h : PastWidth cfg c sp w) (hc : c = 0) (hl : cfg.width < w.length) :
    placeWord cfg c sp ended why w =
      (placeChars false (w.take cfg.width) ++ placeNewline cfg.fill why, cfg.width) := by
  rw [placeWord, if_neg h.not_fits, if_neg (by omega), if_neg (by omega)]

/-- The rows of R116 leave no case out. -/
theorem placeWord_rows (cfg : CircCfg) (c sp : Nat) (w : List PChar) :
    (cfg.width = 0 ∨ c + sp + w.length ≤ cfg.width) ∨ PastWidth cfg c sp w ∧ 0 < c ∨
      PastWidth cfg c sp w ∧ c = 0 ∧ w.length ≤ cfg.width ∨ PastWidth cfg c sp w ∧ c = 0 ∧ cfg.width < w.length := by
  unfold PastWidth
  omega

/-- What is placed prints the word's first characters, in order (R116). -/
theorem printsOf_placeWord : printsOf (placeWord cfg c sp ended why w).1 = w.take (placeWord cfg c sp ended why w).2 := by
  rcases placeWord_rows cfg c sp w with h | ⟨h, hc⟩ | ⟨h, hc, hl⟩ | ⟨h, hc, hl⟩
  · rw [placeWord_fits h, printsOf_append, printsOf_placeSpaces, printsOf_placeChars, List.take_length, List.nil_append]
  · rw [placeWord_newline h hc, printsOf_still (placeNewline_still _ _), List.take_zero]
  · rw [placeWord_alone h hc hl, printsOf_placeChars, List.take_length]
  · rw [placeWord_split h hc hl, printsOf_append, printsOf_placeChars, printsOf_still (placeNewline_still _ _),
      List.append_nil]

theorem placeWord_noWidth (h : cfg.width = 0) : (placeWord cfg c sp ended why w).2 = w.length ∧
    columnAfter c (placeWord cfg c sp ended why w).1 = c + sp + w.length := by
  rw [placeWord_fits (.inl h), columnAfter_append, columnAfter_placeSpaces, columnAfter_placeChars]
  exact ⟨rfl, rfl⟩

/-- On a circuit with a width the column never passes it (R116). -/
theorem placeWord_staysWithin (hw : 0 < cfg.width) (hc : c ≤ cfg.width) :
    StaysWithin cfg.width c (placeWord cfg c sp ended why w).1 := by
  rcases placeWord_rows cfg c sp w with h | ⟨h, hpos⟩ | ⟨h, rfl, hl⟩ | ⟨h, rfl, hl⟩
  · rw [placeWord_fits h]
    apply staysWithin_of_length
    rw [List.length_append, length_placeSpaces, length_placeChars]
    omega
  · rw [placeWord_newline h hpos]
    exact staysWithin_still (placeNewline_still _ _) hc
  · rw [placeWord_alone h rfl hl]
    apply staysWithin_of_length
    rwa [length_placeChars, Nat.zero_add]
  · have hlen : (w.take cfg.width).length = cfg.width := List.length_take_of_le (Nat.le_of_lt hl)
    rw [placeWord_split h rfl hl]
    refine StaysWithin.append (staysWithin_of_length ?_) (staysWithin_still (placeNewline_still _ _) ?_)
    · rw [length_placeChars, hlen, Nat.zero_add]
    · rw [columnAfter_placeChars, hlen, Nat.zero_add]

/-- A word is not placed whole only for a newline before it, or split on an empty line it does not fit (R116). -/
theorem placeWord_part (hlt : (placeWord cfg c sp ended why w).2 < w.length) :
    (placeWord cfg c sp ended why w).2 = 0 ∧ 0 < c ∧ cfg.width < c + sp + w.length ∨
      (placeWord cfg c sp ended why w).2 = cfg.width ∧ c = 0 ∧ cfg.width < w.length := by
  rcases placeWord_rows cfg c sp w with h | ⟨h, hc⟩ | ⟨h, hc, hl⟩ | ⟨h, hc, hl⟩
  · rw [placeWord_fits h] at hlt
    exact absurd hlt (Nat.lt_irrefl _)
  · rw [placeWord_newline h hc]
    exact .inl ⟨rfl, hc, h.2⟩
  · rw [placeWord_alone h hc hl] at hlt
    exact absurd hlt (Nat.lt_irrefl _)
  · rw [placeWord_split h hc hl]
    exact .inr ⟨rfl, hc, hl⟩

end
end Sys2Proof.Machine
end

section
namespace Sys2Proof.Machine

/-! ### The packing as a whole (chapter 7) -/

/-- Settles O46: the code table by its rows; a reading of the text by what stands at the read position; the fields and
the packing of a service line; the requests and the newlines of each phase; and the four rows of R116. -/
theorem placementKeepsTheWidth : Obligations.PlacementKeepsTheWidth := by
  refine ⟨fun b => ⟨tokenOf_space, tokenOf_newline, tokenOf_take, tokenOf_kill, tokenOf_skip, tokenOf_upper,
      tokenOf_lower, tokenOf_national, ?_, tokenOf_unrepresentable⟩,
    fun e d k => ⟨heldTooLong_iff _ _, textStep_replayed, fun hgo => ⟨textStep_tooLong hgo, fun hshort => ?_⟩,
      placeHeld_fields e d⟩,
    fun s n t st hi hs => ?_, by decide, fun a b => ⟨rfl, fun m => rfl⟩,
    fun k hk => ⟨fun x => decimal_isDigit, digitsValue_decimal hk, decimal_head hk⟩, rfl,
    ⟨rfl, fun fs => rfl, fun f fs hf => joinFields_cons hf fs⟩,
    fun b => ⟨fun c => svcTok_print, svcTok_space, svcTok_other⟩,
    fun s n => ⟨by simp [State.OnlyCirc, State.beginSvc, State.updSnd], beginSvc_circ⟩,
    fun cfg d ts c => ⟨rfl, svcStep_space cfg d ts, rfl, rfl⟩,
    fun s n t st d hi hs hd => ?_, fun s n i x hi hx => ?_, fun cfg c sp ended why w => ?_⟩
  · rintro i hi rfl
    exact tokenOf_figure i hi
  · have hreads : d.Reads e := ⟨hgo, hshort⟩
    refine ⟨fun hend => ?_, textStep_missing hreads, fun b hend hbyte => ?_⟩
    · rw [textStep_end hreads hend]
      exact ⟨fun ho => if_pos ho, fun ho hh => by rw [if_neg (by simp [ho]), if_pos hh],
        fun ho hh => by rw [if_neg (by simp [ho]), if_neg hh]⟩
    · have hmeets : d.Meets e b := ⟨hreads, hend, hbyte⟩
      refine ⟨fun hd hb => ?_, fun hout => ⟨fun c hc => ?_, textStep_wordEnds hmeets hout, fun hh => ?_⟩⟩
      · rw [textStep_digit hmeets hd hb, senderAdvance_eq]
      · rw [textStep_goesOn ⟨hmeets, hout, .inl (by rw [hc]; rfl)⟩ (by rw [hc]; rfl), senderAdvance_eq]
      · have htakes : d.Takes e b := ⟨hmeets, hout, .inr hh⟩
        refine ⟨fun ht => ?_, fun ht => ⟨fun hc hb => ?_, fun hnb => ?_⟩, fun ht => ⟨fun hc => ?_, fun hc => ?_⟩,
          fun ht => ?_, fun ht => ?_⟩
        · rw [textStep_goesOn htakes (by rw [ht]; rfl), senderAdvance_eq, addSpace_eq]
        · rw [textStep_goesOn htakes (by rw [ht]; exact takeToken_newline_bare hc hb), senderAdvance_eq]
        · rw [textStep_stops htakes (by rw [ht]; exact takeToken_newline_placed hnb), senderAdvance_eq]
        · rw [textStep_stops htakes (by rw [ht]; exact takeToken_take_read hc), senderAdvance_eq]
        · rw [textStep_stops htakes (by rw [ht]; exact takeToken_take_placed hc), senderAdvance_eq]
        · rw [textStep_goesOn htakes (by rw [ht]; rfl), senderAdvance_eq]
        · rw [textStep_goesOn htakes (by rw [ht]; rfl), senderAdvance_eq]
  · simp only [svcLine_story hi hs]
    exact ⟨fun h => by rw [h]; rfl, fun h => by rw [h]; rfl, fun h => by rw [h]; rfl, fun k h hk => by rw [h, hk]; rfl,
      fun h => by rw [h]; rfl⟩
  · have hfirst := openerPhase_story hi hs hd
    refine ⟨fun hp => ⟨fun hc => ?_, askTurn_opening_above hi hp, ?_⟩, fun hp => ?_, fun hp => nlNext_head hi hs hd hp,
      fun hp => nlNext_resume hp, fun hp y g hr => ⟨?_, ?_, ?_⟩,
      fun hp => ⟨askTurn_closing_zero hi hp, askTurn_closing_above hi hp⟩, nlNext_closing, nlNext_endLine, askTurn_blank hi⟩
    · rw [askTurn_opening_zero hi hp hc, hfirst]
    · rw [nlNext_opening hp, hfirst]
    · have hline : (s.circ n).snd.phase.isLine := by
        unfold Phase.isLine
        tauto
      exact ⟨askTurn_beginSvc hi hline, fun ts => askTurn_svc hi hline⟩
    · rintro rfl
      exact askTurn_ready hi hp hs hr
    · rintro rfl
      exact askTurn_nothing hi hp hs hr
    · rintro rfl hstop
      rw [askTurn_atEnd hi hp hs hr, storyEnd_closing hstop]
  · refine ⟨svcLine_notice hi hx, fun hp => ⟨fun hc => ?_, askTurn_opening_above hi hp, ?_⟩,
      fun hp => ⟨askTurn_beginSvc hi (by simp [Phase.isLine, hp]), fun ts => askTurn_svc hi (by simp [Phase.isLine, hp]),
        nlNext_notice hi hp⟩⟩
    · rw [askTurn_opening_zero hi hp hc, openerPhase_notice hi]
    · rw [nlNext_opening hp, openerPhase_notice hi]
  · exact ⟨placeWord_fits,
      fun hw hlt => ⟨placeWord_newline ⟨hw, hlt⟩, placeWord_alone ⟨hw, hlt⟩, placeWord_split ⟨hw, hlt⟩⟩,
      printsOf_placeWord, placeWord_noWidth, fun hw hc => ⟨placeWord_staysWithin hw hc, placeWord_part⟩⟩

end Sys2Proof.Machine
end

section
namespace Sys2Proof.Machine

/-! ### The printer follows the planes (R111 to R113) -/

section
variable {cfg : CircCfg} {d d' : Sender} {usos : Bool} {p : Option Plane} {k : Nat} {ps : List Placed} {m : Mark}

theorem printerTakes_shift (q : Plane) : printerTakes usos p q.shift = (some q, .silent) := by
  cases q <;> rfl

/-- No character of a plane has the code of a shift, of the space, of CR or of LF (R170). -/
theorem printerTakes_planeCode {c : Code5} (h : c ∈ planeCodes) : printerTakes usos p c = (p, .printed p c) := by
  have hc : ∀ c ∈ planeCodes, c ≠ codeLtr ∧ c ≠ codeFig ∧ c ≠ codeNat ∧ c ≠ codeSpace ∧ c ≠ codeCr ∧ c ≠ codeLf := by
    decide
  obtain ⟨hltr, hfig, hnat, hspace, hcr, hlf⟩ := hc c h
  simp only [printerTakes, hltr, hfig, hnat, hspace, hcr, hlf, if_false]

theorem printerMakes_silent {q : Option Plane} {c : Code5} (cs : List Code5)
    (h : printerTakes usos p c = (q, .silent)) : printerMakes usos p (c :: cs) = printerMakes usos q cs := by
  simp only [printerMakes, h, if_true]

theorem printerMakes_glyph {q : Option Plane} {c : Code5} {g : Glyph} (cs : List Code5)
    (h : printerTakes usos p c = (q, g)) (hg : g ≠ .silent) :
    printerMakes usos p (c :: cs) = g :: printerMakes usos q cs := by
  simp only [printerMakes, h, hg, if_false]

theorem handed_done (h : d.plan = []) : handed cfg k d = [] := by
  cases k with
  | zero => rfl
  | succ k => simp only [handed, Sender.handFirst, h]

theorem handed_succ {c : Code5} {b : Bool} (h : d.handFirst cfg = some (d', c, m, b)) :
    handed cfg (k + 1) d = c :: handed cfg k d' := by
  simp only [handed, h]

theorem handFirst_print {c : PChar} (h : d.plan = { sym := .print c, mark := m } :: ps) (hq : d.plane = some c.plane) :
    d.handFirst cfg = some ({ d with plan := ps, column := bumpColumn cfg.width d.column }, c.code, m, c.subst) := by
  simp only [Sender.handFirst, h, hq, if_true]

theorem handFirst_shift {c : PChar} (h : d.plan = { sym := .print c, mark := m } :: ps)
    (hq : d.plane ≠ some c.plane) :
    d.handFirst cfg = some ({ d with plane := some c.plane }, c.plane.shift, .none, false) := by
  simp only [Sender.handFirst, h, hq, if_false]

theorem handFirst_space (h : d.plan = { sym := .space, mark := m } :: ps) : d.handFirst cfg =
    some ({ d with
      plan := ps, column := bumpColumn cfg.width d.column
      plane := if cfg.usos && d.plane == some .fig then some .ltr else d.plane }, codeSpace, m, false) := by
  simp only [Sender.handFirst, h]

theorem handFirst_cr (h : d.plan = { sym := .cr, mark := m } :: ps) :
    d.handFirst cfg = some ({ d with plan := ps }, codeCr, m, false) := by
  simp only [Sender.handFirst, h]

theorem handFirst_lf (h : d.plan = { sym := .lf, mark := m } :: ps) :
    d.handFirst cfg = some ({ d with plan := ps }, codeLf, m, false) := by
  simp only [Sender.handFirst, h]

theorem handFirst_fill (h : d.plan = { sym := .fill, mark := m } :: ps) : d.handFirst cfg =
    some ({ d with plan := ps, plane := some (d.plane.getD .ltr) }, (d.plane.getD .ltr).shift, m, false) := by
  simp only [Sender.handFirst, h]
  rfl

/-- A printer that stands in a character's plane prints it; the Sender hands it no shift. -/
theorem printerMakes_print {c : PChar} (h : d.plan = { sym := .print c, mark := m } :: ps)
    (hq : d.plane = some c.plane) (hc : c.code ∈ planeCodes) :
    printerMakes cfg.usos (some c.plane) (handed cfg (k + 1) d) = .printed (some c.plane) c.code ::
      printerMakes cfg.usos (some c.plane)
        (handed cfg k { d with plan := ps, column := bumpColumn cfg.width d.column }) := by
  rw [handed_succ (handFirst_print h hq), printerMakes_glyph _ (printerTakes_planeCode hc) (by simp)]

/-- After each character handed the printer stands in the tracked plane, or the plane is still UNKNOWN; a character
needs two requests at most, its shift's and its own. -/
theorem printerMakes_handed (hcodes : ∀ x ∈ ps, ∀ c, x.sym = .print c → c.code ∈ planeCodes) (hplan : d.plan = ps)
    (htrack : d.plane = none ∨ d.plane = p) (hk : 2 * ps.length ≤ k) :
    printerMakes cfg.usos p (handed cfg k d) = meant ps := by
  induction ps generalizing d p k with
  | nil =>
    rw [handed_done hplan]
    rfl
  | cons x ps ih =>
    obtain ⟨sym, m⟩ := x
    have hrest : ∀ x ∈ ps, ∀ c, x.sym = .print c → c.code ∈ planeCodes := fun x hx =>
      hcodes x (List.mem_cons_of_mem _ hx)
    rw [List.length_cons] at hk
    obtain ⟨k, rfl⟩ : ∃ j, k = j + 2 := ⟨k - 2, by omega⟩
    cases sym with
    | print c =>
      have hc : c.code ∈ planeCodes := hcodes _ List.mem_cons_self c rfl
      by_cases hq : d.plane = some c.plane
      · obtain rfl : some c.plane = p := by simpa [hq] using htrack
        rw [printerMakes_print hplan hq hc]
        exact congrArg _ (ih hrest rfl (.inr hq) (by omega))
      · rw [handed_succ (handFirst_shift hplan hq), printerMakes_silent _ (printerTakes_shift c.plane),
          printerMakes_print (d := { d with plane := some c.plane }) hplan rfl hc]
        exact congrArg _ (ih hrest rfl (.inr rfl) (by omega))
    | space =>
      have htakes : printerTakes cfg.usos p codeSpace =
          (if cfg.usos && p == some .fig then some .ltr else p, .space) := rfl
      rw [handed_succ (handFirst_space hplan), printerMakes_glyph _ htakes (by simp)]
      refine congrArg _ (ih hrest rfl ?_ (by omega))
      rcases htrack with hq | rfl
      · exact .inl (by simp [hq])
      · exact .inr rfl
    | cr =>
      rw [handed_succ (handFirst_cr hplan), printerMakes_glyph (g := .cr) (q := p) _ rfl (by simp)]
      exact congrArg _ (ih hrest rfl htrack (by omega))
    | lf =>
      rw [handed_succ (handFirst_lf hplan), printerMakes_glyph (g := .lf) (q := p) _ rfl (by simp)]
      exact congrArg _ (ih hrest rfl htrack (by omega))
    | fill =>
      rw [handed_succ (handFirst_fill hplan), printerMakes_silent _ (printerTakes_shift _)]
      exact ih hrest rfl (.inr rfl) (by omega)

end

/-- Settles O47: the printer follows the plan character by character. -/
theorem printerFollowsThePlanes : Obligations.PrinterFollowsThePlanes :=
  fun _ _ _ _ hcodes htrack hk => printerMakes_handed hcodes rfl htrack hk

end Sys2Proof.Machine
end

section
namespace Sys2Proof.Machine

/-! ### The fields of a circuit entry as taken (R133) -/

theorem stagedFlag_iff (m : Memory) (o : Nat) : stagedFlag m o = true ↔ memRead m o ≠ 0 := bne_iff_ne

theorem min_eq_clamp (hi x : Nat) : min hi x = if hi < x then hi else x := by split <;> omega

theorem max_eq_clamp (lo x : Nat) : max lo x = if x < lo then lo else x := by split <;> omega

/-- A starve limit of 0 is none (R99, R133). -/
theorem starved_unlimited {s : State} {k : Circ} (h : (s.ccfg k).starveLim = 0) : s.starved k = false := by
  simp [State.starved, h]

/-- Settles O44: each field of a circuit entry by its own clamp. -/
theorem lineFieldsClamp : Obligations.LineFieldsClamp := fun m _ =>
  ⟨stagedFlag_iff m _, stagedFlag_iff m _, stagedFlag_iff m _, stagedFlag_iff m _, min_eq_clamp _ _, min_eq_clamp _ _,
    max_eq_clamp _ _, max_eq_clamp _ _, max_eq_clamp _ _, rfl, rfl, rfl, rfl, fun _ _ hk hl => starved_unlimited (hk ▸ hl)⟩

end Sys2Proof.Machine
end

section
namespace Sys2Proof.Machine

/-! ### A tick of the line timebase (R134, R137, R147) -/

section
variable {s : State} {n : Circ}

theorem tick_frame (s : State) :
    s.tick = { s with circuits := s.tick.circuits, pending := s.tick.pending } := rfl

/-- What falls due on a tick joins the queue, read off the Line Units after it (log entry 26). -/
theorem tick_pending (h : s.pending = []) :
    s.tick.pending = allCircs.flatMap fun n => dueOn n (s.tick.circ n).lu (s.ccfg n) := by
  simp only [State.tick, h, List.nil_append]
  rfl

/-- The Line Unit after a tick by the level its input reads. -/
theorem tick_lu : (s.circ n).lu.tick (s.ccfg n).invert =
    if (s.circ n).lu.state = .off then (s.circ n).lu
    else if s.readsMarkOn n then
      { (s.circ n).lu with
        markRun := (s.circ n).lu.markRun + 1, spaceRun := 0
        slot := (s.circ n).lu.slot.map fun x => { x with elapsed := x.elapsed + 1 }
        idle := (s.circ n).lu.idle.map fun e => e + 1 }
    else
      { (s.circ n).lu with
        markRun := 0, spaceRun := (s.circ n).lu.spaceRun + 1
        slot := (s.circ n).lu.slot.map fun x => { x with elapsed := x.elapsed + 1 }
        idle := (s.circ n).lu.idle.map fun e => e + 1 } := by
  unfold LineUnit.tick
  split
  · rfl
  · cases hm : (s.circ n).lu.readsMark (s.ccfg n).invert <;> simp only [State.readsMarkOn, hm] <;> rfl

end

/-! ### What falls due (R134, R138, R147 to R153) -/

section
variable {n : Circ} {l : LineUnit} {c : CircCfg}

theorem breakable_iff (x : CState) : x.breakable = true ↔ x = .lead ∨ x = .running ∨ x = .held := by
  cases x <;> decide

theorem faultDue_iff (limit : Nat) : l.faultDue limit = true ↔
    0 < l.spaceRun ∧ limit ≤ l.spaceRun ∧ (l.fltDet = false ∨ l.spaceRun = limit) := by
  simp [LineUnit.faultDue, and_assoc]

theorem slotOver_iff (time : Nat) : l.slotOver time = true ↔ ∃ sl, l.slot = some sl ∧ time ≤ sl.elapsed := by
  simp [LineUnit.slotOver, Option.any_eq_true]

theorem breakDetected_due : Instr.breakDetected n ∈ dueOn n l c ↔
    (l.state = .lead ∨ l.state = .running ∨ l.state = .held) ∧ l.brkDet = false ∧ 0 < l.spaceRun ∧
      c.brkLimit ≤ l.spaceRun := by
  simp [dueOn, breakable_iff, and_assoc]

theorem loopFault_due : Instr.loopFault n ∈ dueOn n l c ↔ l.state ≠ .off ∧ l.state ≠ .fault ∧ 0 < l.spaceRun ∧
    c.fltLimit ≤ l.spaceRun ∧ (l.fltDet = false ∨ l.spaceRun = c.fltLimit) := by
  simp [dueOn, faultable_iff, faultDue_iff, and_assoc]

theorem breakClear_due : Instr.breakClear n ∈ dueOn n l c ↔
    l.state = .broken ∧ 0 < l.markRun ∧ c.clrLimit ≤ l.markRun := by
  simp [dueOn, and_assoc]

theorem faultRestore_due : Instr.faultRestore n ∈ dueOn n l c ↔
    l.state = .fault ∧ 0 < l.markRun ∧ c.clrLimit ≤ l.markRun := by
  simp [dueOn, and_assoc]

theorem slotComplete_due :
    Instr.slotComplete n ∈ dueOn n l c ↔ ∃ sl, l.slot = some sl ∧ c.charTime ≤ sl.elapsed := by
  simp [dueOn, slotOver_iff]

theorem idleTimeout_due :
    Instr.idleTimeout n ∈ dueOn n l c ↔ c.idleTicks ≠ 0 ∧ ∃ e, l.idle = some e ∧ c.idleTicks ≤ e := by
  simp [dueOn, Option.any_eq_true]

end

/-! ### A change of the sense input (R147) -/

section
variable {s : State} {n : Circ} {b : Bool}

theorem exec_senseInputLevelChange : exec (.senseInputLevelChange n b) s = .next (s.senseLevel n b) := rfl

theorem senseLevel_same (h : (s.circ n).lu.sense = b) : s.senseLevel n b = s := if_pos h

theorem senseLevel_other (h : (s.circ n).lu.sense ≠ b) :
    s.senseLevel n b = s.updLu n fun l => { l with sense := b, spaceRun := 0, markRun := 0 } := if_neg h

theorem onlyCirc_updLu (f : LineUnit → LineUnit) : s.OnlyCirc (s.updLu n f) n := by
  simp [State.OnlyCirc, State.updLu]

end

/-- Settles O2: a tick by what it counts and what it queues, each event by its due test, and the sense input. -/
theorem timebaseAndSense : Obligations.TimebaseAndSense := by
  refine ⟨fun s hp => ⟨s.tick, ?_, tick_frame s, tick_pending hp, fun n => ?_⟩,
    fun n l c => ⟨breakDetected_due, loopFault_due, breakClear_due, faultRestore_due, slotComplete_due, idleTimeout_due⟩,
    fun s n b => ⟨fun h => ?_, fun h => ⟨_, exec_senseInputLevelChange, ?_⟩⟩⟩
  · simp only [step, hp]
  · rw [tick_circ, tick_lu]
  · rw [exec_senseInputLevelChange, senseLevel_same h]
  · rw [senseLevel_other h]
    exact ⟨onlyCirc_updLu _, circ_updLu_same s n _⟩

end Sys2Proof.Machine
end

section
namespace Sys2Proof.Machine

/-! ### What a Line Unit keeps while its Sender and Scheduler work -/

section
variable {s u : State} {n : Circ} {t : Tag} {st : Story} {stop : StopOrder}

theorem station_motor (h : u.station = s.station) (n : Circ) : (u.circ n).lu.motor = (s.circ n).lu.motor := by
  simpa [LineUnit.fixed] using congrArg LineUnit.motor (station_lu h n)

theorem station_hold (h : u.station = s.station) (n : Circ) : (u.circ n).lu.hold = (s.circ n).lu.hold := by
  simpa [LineUnit.fixed] using congrArg LineUnit.hold (station_lu h n)

theorem station_fltDet (h : u.station = s.station) (n : Circ) : (u.circ n).lu.fltDet = (s.circ n).lu.fltDet := by
  simpa [LineUnit.fixed] using congrArg LineUnit.fltDet (station_lu h n)

theorem station_brkDet (h : u.station = s.station) (n : Circ) : (u.circ n).lu.brkDet = (s.circ n).lu.brkDet := by
  simpa [LineUnit.fixed] using congrArg LineUnit.brkDet (station_lu h n)

theorem updLu_updLu (f g : LineUnit → LineUnit) : (s.updLu n f).updLu n g = s.updLu n fun l => g (f l) := by
  simp [State.updLu]

/-- Everything but the capture record. -/
theorem silentStop_keeps : ∃ c, ((s.silentStop n).circ n).lu = { (s.circ n).lu with capture := c } := by
  simp only [State.silentStop]
  (repeat' split)
  · exact ⟨_, rfl⟩
  · exact ⟨_, rfl⟩
  · refine ⟨none, ?_⟩
    rw [yard_circ (yard_retireTest _ _), circ_updLu_same, leaveService_lu, stopNotice_lu,
      yard_circ (yard_abandonOnly _ _ _)]

theorem endStop_lu : ((s.endStop n).circ n).lu = (s.circ n).lu := by
  unfold State.endStop
  split
  · rfl
  · rw [yard_circ (yard_retireTest _ _), leaveService_lu, yard_circ (yard_abandonOnly _ _ _)]

theorem stopLineOrEnd_lu : ((s.stopLineOrEnd n).circ n).lu = (s.circ n).lu := by
  unfold State.stopLineOrEnd
  (repeat' split)
  · rfl
  · rw [circ_updSnd_same]
  · exact endStop_lu
  · exact endStop_lu

theorem stopHere_keeps : ∃ c, ((s.stopHere n).circ n).lu = { (s.circ n).lu with capture := c } := by
  have hcleared : ((s.stopCleared n).circ n).lu =
      { (s.circ n).lu with capture := (s.circ n).lu.capture.map Capture.stopped } := by
    simp [State.stopCleared]
  refine ⟨_, Eq.trans ?_ hcleared⟩
  rw [stopHere_eq]
  split
  · exact stopLineOrEnd_lu
  · rw [circ_updSnd_same]

theorem updStory_circ (g : Story → Story) (m : Circ) : (s.updStory t g).circ m = s.circ m :=
  yard_circ (yard_updStory s t g) m

theorem preemptDone_lu : ((s.preemptDone n).circ n).lu = (s.circ n).lu := by
  simp only [State.preemptDone]
  (repeat' split)
  · rfl
  · rfl
  · rw [enqueueBack_lu, State.dropPend, circ_updSnd_same, leaveService_lu, updStory_circ, updDelivery_circ]
  · rw [enqueueBack_lu, State.dropPend, circ_updSnd_same, leaveService_lu, updDelivery_circ]

theorem beginLeave_lu (k : Leave) : ((s.beginLeave n k).circ n).lu = (s.circ n).lu := by
  simp only [State.beginLeave]
  split
  · rw [preemptDone_lu, circ_updSnd_same]
  · rw [circ_updSnd_same, circ_updSnd_same]

theorem actAtOnce_keeps : ∃ c, ((s.actAtOnce n).circ n).lu = { (s.circ n).lu with capture := c } := by
  unfold State.actAtOnce
  (repeat' split)
  · rw [State.dropPend, circ_updSnd_same]
    exact silentStop_keeps
  · exact stopHere_keeps
  · exact ⟨_, rfl⟩
  · exact ⟨_, beginLeave_lu _⟩

theorem select_lu : ((s.select n).circ n).lu = (s.circ n).lu := by
  unfold State.select
  (repeat' split)
  · rfl
  · rw [enterService_circ]
    rfl
  · rfl

/-- Settling moves a Line Unit's idle timer and capture record alone. -/
theorem settleLine_keeps : ∃ c i, ((s.settleLine n).circ n).lu = { (s.circ n).lu with capture := c, idle := i } := by
  obtain ⟨i, f, hframe⟩ := settleAfter_frame (s := (s.setPoint n).actAtOnce n) (n := n)
  obtain ⟨c, hact⟩ := actAtOnce_keeps (s := s.setPoint n) (n := n)
  rw [State.setPoint, circ_updSch_same] at hact
  refine ⟨c, i, ?_⟩
  rw [settleLine_eq, hframe, circ_setCirc_same, select_lu, State.setPoint, hact]

end

theorem sameBlocks_settleBus_self (s : State) : s.SameBlocks s.settleBus :=
  settleBus_sameBlocks (sameBlocks_update s.bus s.mirror s.mem)

/-! ### Settling a circuit on which nothing is reached at once and nothing can be selected -/

section
variable {s : State} {n : Circ}

/-- Selection, a stop and a preemption act in RUNNING and HELD alone (R91, R96, R99, R155). -/
theorem actAtOnce_resting (hr : (s.circ n).lu.state ≠ .running) (hh : (s.circ n).lu.state ≠ .held) :
    s.actAtOnce n = s := by
  simp [State.actAtOnce, State.stopHeld, State.stopAtOnce, State.leavesAtOnce, State.mayLeave, hr, hh]

/-- In HELD, without a stop order, nothing is reached at once while a restart or continuation is due (R99, R150). -/
theorem actAtOnce_due {c : Capture} (hs : (s.circ n).sch.stop = .none) (hl : (s.circ n).lu.state = .held)
    (hc : (s.circ n).lu.capture = some c) (hd : c.restartDue = true) : s.actAtOnce n = s := by
  have hmay : s.mayLeave n = false := by simp [State.mayLeave, hl, hc, hd]
  rw [actAtOnce_unstopped hs, State.leavesAtOnce, hmay]
  rfl

/-- Outside RUNNING the idle timer is stopped (R137). -/
theorem settleAfter_idle (h : (s.circ n).lu.state ≠ .running) : ((s.settleAfter n).circ n).lu.idle = none := by
  have hidle : ((s.select n).setPoint n).isIdle n = false := by
    simp [State.isIdle, State.setPoint, select_lu, h]
  rw [State.settleAfter, fetchTry_eq, circ_updFtc_same, State.setIdle, circ_updLu_same, hidle]
  rfl

theorem settleLine_still (h : (s.setPoint n).actAtOnce n = s.setPoint n) (hr : (s.circ n).lu.state ≠ .running) :
    ∃ p f, s.settleLine n = s.setCirc n { s.circ n with
      lu := { (s.circ n).lu with idle := none }, sch := { (s.circ n).sch with point := p }, ftc := f } := by
  have hcirc : (s.setPoint n).circ n = { s.circ n with sch := { (s.circ n).sch with point := s.pointOf n } } :=
    circ_updSch_same s n _
  have hstate : ((s.setPoint n).circ n).lu.state ≠ .running := by rw [hcirc]; exact hr
  have hsel : (s.setPoint n).select n = s.setPoint n := select_unready (.inr (.inl hstate))
  have hidle := settleAfter_idle hstate
  obtain ⟨i, f, hframe⟩ := settleAfter_frame (s := s.setPoint n) (n := n)
  rw [hsel, hcirc] at hframe
  obtain rfl : i = none := by rw [hframe, circ_setCirc_same] at hidle; exact hidle
  refine ⟨(s.setPoint n).pointOf n, f, ?_⟩
  rw [settleLine_eq, h, hframe, State.setPoint, State.updSch, setCirc_setCirc]

/-- Outside RUNNING and HELD settling moves the preemption point, the idle timer and the fetcher of the circuit. -/
theorem settleLine_resting (hr : (s.circ n).lu.state ≠ .running) (hh : (s.circ n).lu.state ≠ .held) :
    ∃ p f, s.settleLine n = s.setCirc n { s.circ n with
      lu := { (s.circ n).lu with idle := none }, sch := { (s.circ n).sch with point := p }, ftc := f } :=
  settleLine_still (actAtOnce_resting (by simpa [State.setPoint] using hr) (by simpa [State.setPoint] using hh)) hr

/-- The same in HELD while a restart or continuation is due and no stop order is given. -/
theorem settleLine_due {c : Capture} (hs : (s.circ n).sch.stop = .none) (hl : (s.circ n).lu.state = .held)
    (hc : (s.circ n).lu.capture = some c) (hd : c.restartDue = true) :
    ∃ p f, s.settleLine n = s.setCirc n { s.circ n with
      lu := { (s.circ n).lu with idle := none }, sch := { (s.circ n).sch with point := p }, ftc := f } := by
  have hcirc : (s.setPoint n).circ n = { s.circ n with sch := { (s.circ n).sch with point := s.pointOf n } } :=
    circ_updSch_same s n _
  exact settleLine_still
    (actAtOnce_due (by rw [hcirc]; exact hs) (by rw [hcirc]; exact hl) (by rw [hcirc]; exact hc) hd) (by simp [hl])

end

/-! ### Entry into RUNNING and into HELD (R134, R136, R140) -/

section
variable {s : State} {n : Circ}

/-- A slot begun is in progress (R134). -/
theorem beginSlot_slot : ((s.beginSlot n).circ n).lu.slot.isSome = true := by
  have hfetch : ∀ u : State, ((u.fetchTry n).circ n).lu = (u.circ n).lu := fun u => by
    rw [fetchTry_eq, circ_updFtc_same]
  simp only [State.beginSlot]
  split
  · rw [hfetch]
    (repeat' split) <;> simp only [updDelivery_circ, circ_updLu_same, Option.isSome_some]
  · split <;> simp only [circ_updLu_same, Option.isSome_some]

theorem enterRunning_eq :
    s.enterRunning n = State.beginSlot (State.settleLine (s.updLu n fun l => { l with state := .running }) n) n := rfl

theorem enterRunning_station : (s.enterRunning n).station = (s.updLu n fun l => { l with state := .running }).station := by
  simp only [State.enterRunning, station_beginSlot, station_settleLine]

theorem enterRunning_state : ((s.enterRunning n).circ n).lu.state = .running := by
  rw [station_state enterRunning_station, circ_updLu_same]

theorem enterRunning_motor : ((s.enterRunning n).circ n).lu.motor = (s.circ n).lu.motor := by
  rw [station_motor enterRunning_station, circ_updLu_same]

theorem enterRunning_fltDet : ((s.enterRunning n).circ n).lu.fltDet = (s.circ n).lu.fltDet := by
  rw [station_fltDet enterRunning_station, circ_updLu_same]

theorem enterRunning_slot : ((s.enterRunning n).circ n).lu.slot.isSome = true := by
  rw [enterRunning_eq]
  exact beginSlot_slot

theorem heldCore_settled (h : vget s.mirror.pendCirc n = false) : s.heldCore n =
    (s.updLu n fun l => { l with state := .held, hold := false, slot := none, idle := none }).settleLine n := by
  simp only [State.heldCore]
  rw [circBoundary_settled (s := s.updLu n _) h]

/-- HELD with no part pending (R136, R140). -/
theorem heldCore_lu (h : vget s.mirror.pendCirc n = false) : ∃ c i, ((s.heldCore n).circ n).lu =
    { (s.circ n).lu with state := .held, hold := false, slot := none, capture := c, idle := i } := by
  obtain ⟨c, i, hkeeps⟩ := settleLine_keeps
    (s := s.updLu n fun l => { l with state := .held, hold := false, slot := none, idle := none }) (n := n)
  exact ⟨c, i, by rw [heldCore_settled h, hkeeps, circ_updLu_same]⟩

theorem enterHeld_settled (h : vget s.mirror.pendCirc n = false) : s.enterHeld n = s.heldCore n :=
  afterPart_parts (parts_heldCore h)

/-- The lead over, before what follows it (R135). -/
def State.leadDone (s : State) (n : Circ) : State := s.updLu n fun l => { l with leadLeft := 0, slot := none }

theorem leadDone_circ : (s.leadDone n).circ n =
    { s.circ n with lu := { (s.circ n).lu with leadLeft := 0, slot := none } } := circ_updLu_same s n _

theorem leadEnd_eq : s.leadEnd n =
    if ((s.leadDone n).circ n).lu.hold then
      if (((s.leadDone n).enterHeld n).circ n).lu.fltDet then ((s.leadDone n).enterHeld n).faultCore n
      else if (((s.leadDone n).enterHeld n).circ n).lu.brkDet then ((s.leadDone n).enterHeld n).enterBroken n
      else (s.leadDone n).enterHeld n
    else (s.leadDone n).enterRunning n := by
  unfold State.leadEnd State.leadDone
  rfl

theorem leadEnd_running (h : (s.circ n).lu.hold = false) : s.leadEnd n = (s.leadDone n).enterRunning n := by
  rw [leadEnd_eq, leadDone_circ]
  exact if_neg (by simp [h])

/-- With a hold pending, no part and no fault detected, the lead ends in HELD, where a detected break is acted on (R136,
R148). -/
theorem leadEnd_held (h : (s.circ n).lu.hold = true) (hp : vget s.mirror.pendCirc n = false)
    (hf : (s.circ n).lu.fltDet = false) : s.leadEnd n =
      if (s.circ n).lu.brkDet then ((s.leadDone n).heldCore n).enterBroken n else (s.leadDone n).heldCore n := by
  obtain ⟨c, i, hheld⟩ := heldCore_lu (s := s.leadDone n) hp
  rw [leadEnd_eq, enterHeld_settled (s := s.leadDone n) hp, hheld, leadDone_circ]
  simp only [h, hf, Bool.false_eq_true, if_true, if_false]

/-- A circuit that is not STOPPED, or has nothing queued, settles where another starts (R93, R135). -/
theorem sched_settles (h : (s.circ n).lu.state ≠ .stopped ∨ (s.circ n).sch.queue = []) : s.sched n = s.settleLine n := by
  refine if_neg ?_
  rcases h with h | h <;> simp [h]

theorem sched_starts (h : (s.circ n).lu.state = .stopped) (hq : (s.circ n).sch.queue ≠ []) :
    s.sched n = s.leadStart n := if_pos (by simp [h, hq])

theorem leadSlots_none {ends : State → Circ → State} (h : (s.ccfg n).lead = 0) : s.leadSlots n ends = ends s n :=
  if_pos h

theorem leadSlots_some {ends : State → Circ → State} (h : 0 < (s.ccfg n).lead) : s.leadSlots n ends =
    s.updLu n fun l => { l with leadLeft := (s.ccfg n).lead, slot := some { kind := .leadChar, elapsed := 0 } } :=
  if_neg (Nat.pos_iff_ne_zero.1 h)

end

/-! ### A circuit part taken at a boundary (R22, R143, R147) -/

section
variable {s : State} {n : Circ}

theorem parts_spaceLimits (h : vget s.mirror.pendCirc n = false) : (s.spaceLimits n).parts = s.parts := by
  unfold State.spaceLimits
  (repeat' split)
  · exact parts_faultCore h
  · rfl
  · exact parts_faultCore h
  · exact parts_enterBroken h
  · rfl
  · exact parts_faultCore h
  · exact parts_enterBroken h
  all_goals rfl

theorem parts_afterPart {t : State} (h : vget t.mirror.pendCirc n = false) : (s.afterPart n t).parts = t.parts := by
  unfold State.afterPart
  split
  · rfl
  · exact parts_spaceLimits h

/-- What a circuit whose part was examined holds of it: the entry staged, and no part pending (R22). -/
structure State.TookPart (s u : State) (n : Circ) : Prop where
  ccfg : u.ccfg n = stagedCirc s.mirror.staging n
  pendCirc : vget u.mirror.pendCirc n = false

theorem examineCirc_tookPart : s.TookPart (s.examineCirc n) n :=
  ⟨(examineCirc_ccfg n n).trans (if_pos rfl), examineCirc_pendCirc n⟩

theorem State.TookPart.congr {t u : State} (h : s.TookPart t n) (hp : u.parts = t.parts) : s.TookPart u n :=
  ⟨(parts_ccfg hp n).trans h.ccfg, pendCirc_of_parts hp h.pendCirc⟩

theorem State.TookPart.of_staging {t u : State} (h : t.TookPart u n) (hs : t.mirror.staging = s.mirror.staging) :
    s.TookPart u n := ⟨by rw [h.ccfg, hs], h.pendCirc⟩

theorem State.TookPart.settleBus {t : State} (h : s.TookPart t n) : s.TookPart t.settleBus n :=
  ⟨by rw [settleBus_ccfg, h.ccfg], by rw [settleBus_pendCirc, h.pendCirc]⟩

/-- The part taken, the runs compared and the circuit scheduled: the part stays taken (R143, R147). -/
theorem sched_tookPart : s.TookPart ((s.afterPart n (s.examineCirc n)).sched n) n := by
  have htook : s.TookPart (s.afterPart n (s.examineCirc n)) n :=
    examineCirc_tookPart.congr (parts_afterPart (examineCirc_pendCirc n))
  exact htook.congr (parts_sched htook.pendCirc)

end
end Sys2Proof.Machine
end

section
namespace Sys2Proof.Machine

/-! ### RELEASE by the circuit's state (R141, R149) -/

section
variable {s : State} {n : Circ}

theorem releaseReq_off (h : (s.circ n).lu.state = .off) : s.releaseReq n = s := by simp only [State.releaseReq, h]

theorem releaseReq_held (h : (s.circ n).lu.state = .held) : s.releaseReq n = (s.takeUpIfDue n).enterRunning n := by
  simp only [State.releaseReq, h]

theorem releaseReq_broken (h : (s.circ n).lu.state = .broken) : s.releaseReq n = s.updLu n LineUnit.releaseBroken := by
  simp only [State.releaseReq, h]

/-- In the other states RELEASE clears a pending hold, and the circuit acts (R141). -/
theorem releaseReq_pending (h : (s.circ n).lu.state = .stopped ∨ (s.circ n).lu.state = .fault ∨
    (s.circ n).lu.state = .lead ∨ (s.circ n).lu.state = .running) : s.releaseReq n =
      if (s.circ n).lu.hold then State.sched (s.updLu n fun l => { l with hold := false }) n else s := by
  rcases h with h | h | h | h <;> simp only [State.releaseReq, h]

/-- The hold is cleared and the state stays, where the circuit does not start (R141). -/
theorem releaseReq_cleared (h : (s.circ n).lu.state = .stopped ∧ (s.circ n).sch.queue = [] ∨
    (s.circ n).lu.state = .fault ∨ (s.circ n).lu.state = .lead ∨ (s.circ n).lu.state = .running) :
    ((s.releaseReq n).circ n).lu.hold = false ∧ ((s.releaseReq n).circ n).lu.state = (s.circ n).lu.state := by
  have hstill : (s.circ n).lu.state ≠ .stopped ∨ (s.circ n).sch.queue = [] := by
    rcases h with ⟨-, h⟩ | h | h | h <;> simp [h]
  rw [releaseReq_pending (h.imp_left And.left)]
  split
  · have hcirc := circ_updLu_same s n fun l => { l with hold := false }
    rw [sched_settles (by rw [hcirc]; exact hstill), station_hold (station_settleLine _ n),
      station_state (station_settleLine _ n), hcirc]
    exact ⟨rfl, rfl⟩
  · rename_i hhold
    exact ⟨Bool.eq_false_iff.2 hhold, rfl⟩

/-- Both holds of a break are cleared (R149). -/
theorem releaseBroken_clears (l : LineUnit) : l.releaseBroken.hold = false ∧
    ∀ c, l.releaseBroken.capture = some c → c.holdTaken = false ∧ c.from_ ≠ .held := by
  refine ⟨rfl, fun c hc => ?_⟩
  obtain ⟨d, -, rfl⟩ := Option.map_eq_some_iff.1 hc
  refine ⟨rfl, ?_⟩
  by_cases h : d.from_ = .held <;> simp [h]

theorem releaseReq_idle (hh : (s.circ n).lu.state ≠ .held) (hb : (s.circ n).lu.state ≠ .broken)
    (h : (s.circ n).lu.hold = false) : s.releaseReq n = s := by
  cases hl : (s.circ n).lu.state with
  | off => exact releaseReq_off hl
  | held => exact absurd hl hh
  | broken => exact absurd hl hb
  | stopped | fault | lead | running =>
    rw [releaseReq_pending (by simp [hl]), h]
    rfl

end

/-- Settles O26, state by state. -/
theorem releaseByState : Obligations.ReleaseByState := by
  refine fun s n => ⟨fun h => ?_, fun h _ => releaseReq_cleared (.inr (.inr h)), fun h => ?_, releaseReq_off, fun h => ?_,
    releaseReq_idle⟩
  · rw [releaseReq_held h]
    exact ⟨enterRunning_state, enterRunning_slot⟩
  · exact releaseReq_cleared (h.imp_right .inl)
  · rw [releaseReq_broken h, circ_updLu_same]
    exact releaseBroken_clears _

end Sys2Proof.Machine
end

section
namespace Sys2Proof.Machine

/-! ### What moves one circuit alone -/

section
variable {s t u : State} {n : Circ}

theorem State.OnlyCirc.of_setCirc (c : Circuit) : s.OnlyCirc (s.setCirc n c) n := by
  rw [State.OnlyCirc, circ_setCirc_same]

theorem State.OnlyCirc.trans (h : s.OnlyCirc t n) (k : t.OnlyCirc u n) : s.OnlyCirc u n := by
  rw [State.OnlyCirc] at h k ⊢
  rw [k, h, setCirc_setCirc, circ_setCirc_same]

theorem State.OnlyCirc.others (h : s.OnlyCirc t n) {m : Circ} (hm : m ≠ n) : t.circ m = s.circ m := by
  rw [h, circ_setCirc, if_neg (Ne.symm hm)]

theorem State.OnlyCirc.stories (h : s.OnlyCirc t n) : t.stories = s.stories := by rw [h, setCirc_stories]

theorem State.OnlyCirc.writer (h : s.OnlyCirc t n) : t.writer = s.writer := by rw [h, setCirc_writer]

theorem State.OnlyCirc.parts (h : s.OnlyCirc t n) : t.parts = s.parts := by rw [h, parts_setCirc]

end

/-! ### The slots of the lead (R135, R136) -/

section
variable {s : State} {n : Circ} {sl : Slot}

theorem exec_slotComplete : exec (.slotComplete n) s = .next (s.slotDone n).settleBus := rfl

theorem slotDone_none (h : (s.circ n).lu.slot = none) : s.slotDone n = s := by simp only [State.slotDone, h]

theorem slotDone_lead (h : (s.circ n).lu.slot = some sl) (hl : (s.circ n).lu.state = .lead) :
    s.slotDone n = s.leadSlotDone n := by simp only [State.slotDone, h, hl]

theorem slotDone_running (h : (s.circ n).lu.slot = some sl) (hl : (s.circ n).lu.state = .running) :
    s.slotDone n = s.runSlotDone n sl.kind := by simp only [State.slotDone, h, hl]

/-- A lead slot over, before what follows it (R135). -/
def State.leadSlotOver (s : State) (n : Circ) : State :=
  s.updLu n fun l => { l with leadLeft := l.leadLeft - 1, slot := none }

theorem leadSlotOver_circ : (s.leadSlotOver n).circ n =
    { s.circ n with lu := { (s.circ n).lu with leadLeft := (s.circ n).lu.leadLeft - 1, slot := none } } :=
  circ_updLu_same s n _

/-- With no fault or break detected the lead goes on or ends (R135). -/
theorem leadSlotDone_quiet (hf : (s.circ n).lu.fltDet = false) (hb : (s.circ n).lu.brkDet = false) :
    s.leadSlotDone n = if (s.circ n).lu.leadLeft - 1 = 0 then (s.leadSlotOver n).leadEnd n
      else (s.leadSlotOver n).updLu n fun l => { l with slot := some { kind := .leadChar, elapsed := 0 } } := by
  simp only [State.leadSlotDone, State.leadSlotOver, circ_updLu_same, hf, hb, Bool.false_eq_true, if_false]

end

/-! ### The slots of RUNNING (R128, R134) -/

section
variable {s : State} {n : Circ} {k : SlotKind}

theorem parts_recordSlot : (s.recordSlot n k).parts = s.parts := by
  unfold State.recordSlot
  split
  · exact parts_recordChar s n _
  all_goals rfl

theorem parts_starveTell : (s.starveTell n).parts = s.parts := by
  unfold State.starveTell
  split
  · exact parts_updSch s n _
  · rfl

theorem station_recordSlot : (s.recordSlot n k).station = s.station := by
  unfold State.recordSlot
  split
  · exact station_recordChar s n _
  all_goals rfl

theorem station_starveTell : (s.starveTell n).station = s.station := by
  unfold State.starveTell
  split
  · exact station_updSch s n _
  · rfl

/-- The slot over and recorded, and the starvation count told (R128, R134). -/
def State.slotOver (s : State) (n : Circ) (k : SlotKind) : State :=
  ((s.updLu n fun l => { l with slot := none }).recordSlot n k).starveTell n

theorem slotOver_parts : (s.slotOver n k).parts = s.parts := by
  rw [State.slotOver, parts_starveTell, parts_recordSlot, parts_updLu]

theorem slotOver_station : (s.slotOver n k).station = s.station := by
  rw [State.slotOver, station_starveTell, station_recordSlot]
  exact station_updLu s n _ fun _ => rfl

/-- With no fault or break detected the circuit settles and goes on (R134). -/
theorem runSlotDone_quiet (hf : (s.circ n).lu.fltDet = false) (hb : (s.circ n).lu.brkDet = false) :
    s.runSlotDone n k = ((s.slotOver n k).settleLine n).nextSlotOrHold n := by
  have hf' : ((s.slotOver n k).circ n).lu.fltDet = false := by rw [station_fltDet slotOver_station, hf]
  have hb' : ((s.slotOver n k).circ n).lu.brkDet = false := by rw [station_brkDet slotOver_station, hb]
  rw [State.slotOver] at hf' hb'
  simp only [State.runSlotDone, hf', hb', Bool.false_eq_true, if_false]
  rfl

/-- The boundary before the next slot, where no part is pending (R143). -/
def State.nextBoundary (s : State) (n : Circ) : State := if s.atLineStart n then s.settleLine n else s

theorem nextBoundary_station : (s.nextBoundary n).station = s.station := by
  unfold State.nextBoundary
  split
  · exact station_settleLine s n
  · rfl

/-- With no hold and no part pending a circuit in RUNNING goes on with its next slot (R134). -/
theorem nextSlotOrHold_next (hl : (s.circ n).lu.state = .running) (hh : (s.circ n).lu.hold = false)
    (hp : vget s.mirror.pendCirc n = false) : s.nextSlotOrHold n = (s.nextBoundary n).beginSlot n := by
  have hstate : ((s.nextBoundary n).circ n).lu.state = .running := by rw [station_state nextBoundary_station, hl]
  rw [State.nextBoundary] at hstate ⊢
  simp only [State.nextSlotOrHold, hh, Bool.false_and, Bool.false_eq_true, if_false, circBoundary_settled hp,
    afterPart_parts (parts_settleLine s n), if_pos hstate]

/-- A pending hold takes effect at the line's start (R140). -/
theorem nextSlotOrHold_held (hh : (s.circ n).lu.hold = true) (ha : s.atLineStart n = true)
    (hp : vget s.mirror.pendCirc n = false) : s.nextSlotOrHold n = s.heldCore n := by
  simp only [State.nextSlotOrHold, hh, ha, Bool.and_self, if_true]
  exact enterHeld_settled hp

end

/-! ### The slots of an idle circuit (R134, R140) -/

section
variable {s u : State} {n : Circ} {k : SlotKind}

/-- Circuit n is vacant with nothing placed at column 0. -/
structure State.AtRest (s : State) (n : Circ) : Prop extends s.Vacant n where
  plan : (s.circ n).snd.plan = []
  column : (s.circ n).snd.column = 0

theorem State.AtRest.congr (h : s.AtRest n) (hi : (u.circ n).sch.item = (s.circ n).sch.item)
    (hq : (u.circ n).sch.queue = (s.circ n).sch.queue) (hs : (u.circ n).sch.stop = (s.circ n).sch.stop)
    (hsnd : (u.circ n).snd = (s.circ n).snd) : u.AtRest n :=
  ⟨⟨hi.trans h.item, hq.trans h.queue, hs.trans h.stop⟩, by rw [hsnd, h.plan], by rw [hsnd, h.column]⟩

theorem State.AtRest.updLu (h : s.AtRest n) (f : LineUnit → LineUnit) : (s.updLu n f).AtRest n :=
  h.congr (by rw [circ_updLu_same]) (by rw [circ_updLu_same]) (by rw [circ_updLu_same]) (by rw [circ_updLu_same])

theorem State.AtRest.settleLine (h : s.AtRest n) : (s.settleLine n).AtRest n := by
  have hc := settleLine_vacant h.toVacant
  exact h.congr (by rw [hc, circ_setCirc_same]) (by rw [hc, circ_setCirc_same]) (by rw [hc, circ_setCirc_same])
    (by rw [hc, circ_setCirc_same])

theorem State.AtRest.atLineStart (h : s.AtRest n) : s.atLineStart n = true := by
  simp [State.atLineStart, Sender.inNewline, h.plan, h.column]

theorem settleLine_vacant_onlyCirc (h : s.Vacant n) : s.OnlyCirc (s.settleLine n) n := by
  rw [settleLine_vacant h]
  exact .of_setCirc _

theorem settleLine_vacant_snd (h : s.Vacant n) : ((s.settleLine n).circ n).snd = (s.circ n).snd := by
  rw [settleLine_vacant h, circ_setCirc_same]

theorem starveTell_free (h : (s.circ n).sch.item = none) : s.starveTell n = s :=
  if_neg fun hw => item_of_waitingCopy hw h

/-- A fill or a mark slot of a circuit without an item completes nothing (R134). -/
theorem slotOver_idle (hk : k = .mark ∨ ∃ c, k = .fill c) (h : (s.circ n).sch.item = none) :
    s.slotOver n k = s.updLu n fun l => { l with slot := none } := by
  have hrecord : (s.updLu n fun l => { l with slot := none }).recordSlot n k = s.updLu n fun l => { l with slot := none } := by
    rcases hk with rfl | ⟨c, rfl⟩ <;> rfl
  rw [State.slotOver, hrecord, starveTell_free (by rw [circ_updLu_same]; exact h)]

theorem ask_free (j : Nat) (hi : (s.circ n).sch.item = none) (hp : (s.circ n).snd.plan = []) : State.ask j s n = s := by
  cases j with
  | zero => rfl
  | succ j =>
    have hturn : s.askTurn n = (s, false) := by simp only [State.askTurn, hi]
    simp [State.ask, hp, hturn]

/-- With nothing to hand and no hold pending the next slot is a fill or a mark (R134). -/
theorem beginSlot_idle (h : s.AtRest n) (hh : (s.circ n).lu.hold = false) : s.beginSlot n =
    if (s.ccfg n).idleFill then
      (s.updSnd n fun d => { d with plane := some (d.plane.getD .ltr) }).updLu n fun l =>
        { l with slot := some { kind := .fill (fillCode (s.circ n).snd.plane), elapsed := 0 } }
    else s.updLu n fun l => { l with slot := some { kind := .mark, elapsed := 0 } } := by
  have hhold : s.holdNewline n = s := if_neg (by simp [hh])
  have hhand : (s.circ n).snd.handFirst (s.ccfg n) = none := by simp only [Sender.handFirst, h.plan]
  simp only [State.beginSlot, ask_free 256 h.item h.plan, hhold, hhand, fetchTry_vacant h.toVacant]

theorem beginSlot_idle_onlyCirc (h : s.AtRest n) (hh : (s.circ n).lu.hold = false) : s.OnlyCirc (s.beginSlot n) n := by
  rw [beginSlot_idle h hh]
  split
  · exact (State.OnlyCirc.of_setCirc _).trans (onlyCirc_updLu _)
  · exact onlyCirc_updLu _

theorem beginSlot_idle_mark (h : s.AtRest n) (hh : (s.circ n).lu.hold = false) (hfill : (s.ccfg n).idleFill = false) :
    ((s.beginSlot n).circ n).lu.slot = some { kind := .mark, elapsed := 0 } := by
  rw [beginSlot_idle h hh, hfill, if_neg Bool.false_ne_true, circ_updLu_same]

theorem beginSlot_idle_fill (h : s.AtRest n) (hh : (s.circ n).lu.hold = false) (hfill : (s.ccfg n).idleFill = true) :
    ((s.beginSlot n).circ n).lu.slot = some { kind := .fill (fillCode (s.circ n).snd.plane), elapsed := 0 } ∧
      ((s.beginSlot n).circ n).snd.plane = some ((s.circ n).snd.plane.getD .ltr) := by
  rw [beginSlot_idle h hh, if_pos hfill, circ_updLu_same, circ_updSnd_same]
  exact ⟨rfl, rfl⟩

/-- HELD entered from rest moves the circuit alone (R140). -/
theorem heldCore_idle_onlyCirc (h : s.AtRest n) (hp : vget s.mirror.pendCirc n = false) :
    s.OnlyCirc (s.heldCore n) n := by
  rw [heldCore_settled hp]
  exact (onlyCirc_updLu _).trans (settleLine_vacant_onlyCirc (h.updLu _).toVacant)

/-- The slot of a circuit at rest over, and the circuit settled (R134). -/
def State.restSlotOver (s : State) (n : Circ) : State := (s.updLu n fun l => { l with slot := none }).settleLine n

theorem restSlotOver_atRest (h : s.AtRest n) : (s.restSlotOver n).AtRest n := (h.updLu _).settleLine

theorem restSlotOver_onlyCirc (h : s.AtRest n) : s.OnlyCirc (s.restSlotOver n) n :=
  (onlyCirc_updLu _).trans (settleLine_vacant_onlyCirc (h.updLu _).toVacant)

theorem restSlotOver_station : (s.restSlotOver n).station = s.station :=
  (station_settleLine _ n).trans (station_updLu s n _ fun _ => rfl)

theorem restSlotOver_snd (h : s.AtRest n) : ((s.restSlotOver n).circ n).snd = (s.circ n).snd := by
  rw [State.restSlotOver, settleLine_vacant_snd (h.updLu _).toVacant, circ_updLu_same]

theorem runSlotDone_idle (h : s.AtRest n) (hk : k = .mark ∨ ∃ c, k = .fill c) (hf : (s.circ n).lu.fltDet = false)
    (hb : (s.circ n).lu.brkDet = false) : s.runSlotDone n k = (s.restSlotOver n).nextSlotOrHold n := by
  rw [runSlotDone_quiet hf hb, slotOver_idle hk h.item, State.restSlotOver]

/-- With no hold pending a circuit at rest settles once more and begins a slot (R134, R143). -/
theorem nextSlotOrHold_idle (h : s.AtRest n) (hl : (s.circ n).lu.state = .running) (hh : (s.circ n).lu.hold = false)
    (hp : vget s.mirror.pendCirc n = false) : s.nextSlotOrHold n = (s.settleLine n).beginSlot n := by
  rw [nextSlotOrHold_next hl hh hp, State.nextBoundary, if_pos h.atLineStart]

/-- The slot of a circuit at rest over, with a hold pending: HELD, and nothing else moves (R140). -/
theorem runSlotDone_idle_held (h : s.AtRest n) (hk : k = .mark ∨ ∃ c, k = .fill c) (hf : (s.circ n).lu.fltDet = false)
    (hb : (s.circ n).lu.brkDet = false) (hh : (s.circ n).lu.hold = true) (hp : vget s.mirror.pendCirc n = false) :
    s.OnlyCirc (s.runSlotDone n k) n ∧ ((s.runSlotDone n k).circ n).lu.state = .held ∧
      ((s.runSlotDone n k).circ n).lu.slot = none ∧ ((s.runSlotDone n k).circ n).lu.hold = false := by
  have hover := restSlotOver_atRest h
  have honly := restSlotOver_onlyCirc h
  have hpend := pendCirc_of_parts honly.parts hp
  obtain ⟨c, i, hheld⟩ := heldCore_lu hpend
  rw [runSlotDone_idle h hk hf hb, nextSlotOrHold_held (by rw [station_hold restSlotOver_station, hh]) hover.atLineStart
    hpend, hheld]
  exact ⟨honly.trans (heldCore_idle_onlyCirc hover hpend), rfl, rfl, rfl⟩

/-- The slot of a circuit at rest over, with no hold pending: a mark or a fill slot begins (R134). -/
theorem runSlotDone_idle_next (h : s.AtRest n) (hk : k = .mark ∨ ∃ c, k = .fill c) (hl : (s.circ n).lu.state = .running)
    (hf : (s.circ n).lu.fltDet = false) (hb : (s.circ n).lu.brkDet = false) (hh : (s.circ n).lu.hold = false)
    (hp : vget s.mirror.pendCirc n = false) : s.OnlyCirc (s.runSlotDone n k) n ∧
      ((s.runSlotDone n k).circ n).lu.state = .running ∧
      ((s.ccfg n).idleFill = false → ((s.runSlotDone n k).circ n).lu.slot = some { kind := .mark, elapsed := 0 }) ∧
      ((s.ccfg n).idleFill = true → ((s.runSlotDone n k).circ n).lu.slot =
          some { kind := .fill (fillCode (s.circ n).snd.plane), elapsed := 0 } ∧
        ((s.runSlotDone n k).circ n).snd.plane = some ((s.circ n).snd.plane.getD .ltr)) := by
  have hover := restSlotOver_atRest h
  have honly := (restSlotOver_onlyCirc h).trans (settleLine_vacant_onlyCirc hover.toVacant)
  have hstation : ((s.restSlotOver n).settleLine n).station = s.station :=
    (station_settleLine _ n).trans restSlotOver_station
  have hquiet : (((s.restSlotOver n).settleLine n).circ n).lu.hold = false := by rw [station_hold hstation, hh]
  have hcfg := parts_ccfg honly.parts n
  have hsnd := (settleLine_vacant_snd hover.toVacant).trans (restSlotOver_snd h)
  rw [runSlotDone_idle h hk hf hb, nextSlotOrHold_idle hover (by rw [station_state restSlotOver_station, hl])
    (by rw [station_hold restSlotOver_station, hh]) (pendCirc_of_parts (restSlotOver_onlyCirc h).parts hp)]
  refine ⟨honly.trans (beginSlot_idle_onlyCirc hover.settleLine hquiet), ?_, fun hfill => ?_, fun hfill => ?_⟩
  · rw [station_state (station_beginSlot _ n), station_state hstation, hl]
  · exact beginSlot_idle_mark hover.settleLine hquiet (by rw [hcfg, hfill])
  · rw [← hsnd]
    exact beginSlot_idle_fill hover.settleLine hquiet (by rw [hcfg, hfill])

end

/-- Settles O49: the slots of the lead, of RUNNING and of an idle circuit. -/
theorem slotCompletes : Obligations.SlotCompletes := by
  refine fun s n => ⟨fun h => ?_, fun sl k h hl hf hb hk => ?_, fun sl h hl hf hb hk => ⟨fun hh => ?_, fun hh hp => ?_⟩,
    fun sl h hl hf hb hh hp => ?_, fun sl h hl hk hf hb hidle hstop hplan hcol hp => ?_⟩
  · exact ⟨_, rfl, by rw [slotDone_none h]; exact sameBlocks_settleBus_self s⟩
  · have hmore : (s.circ n).lu.leadLeft - 1 ≠ 0 := by omega
    refine ⟨_, exec_slotComplete, ?_⟩
    rw [slotDone_lead h hl, leadSlotDone_quiet hf hb, if_neg hmore, settleBus_circ, settleBus_stories, settleBus_writer,
      State.leadSlotOver, updLu_updLu]
    refine ⟨?_, fun m hm => ?_, rfl, rfl⟩
    · rw [circ_updLu_same]
      simp only [hk]
      rfl
    · rw [settleBus_circ]
      exact (onlyCirc_updLu _).others hm
  · have hlast : (s.circ n).lu.leadLeft - 1 = 0 := by omega
    refine ⟨_, exec_slotComplete, ?_⟩
    rw [slotDone_lead h hl, leadSlotDone_quiet hf hb, if_pos hlast, leadEnd_running (by rw [leadSlotOver_circ]; exact hh),
      settleBus_circ]
    exact ⟨enterRunning_state, enterRunning_slot⟩
  · have hlast : (s.circ n).lu.leadLeft - 1 = 0 := by omega
    have hcirc := leadSlotOver_circ (s := s) (n := n)
    obtain ⟨c, i, hheld⟩ := heldCore_lu (s := (s.leadSlotOver n).leadDone n) hp
    refine ⟨_, exec_slotComplete, ?_⟩
    rw [slotDone_lead h hl, leadSlotDone_quiet hf hb, if_pos hlast,
      leadEnd_held (s := s.leadSlotOver n) (by rw [hcirc]; exact hh) hp (by rw [hcirc]; exact hf),
      if_neg (by rw [hcirc]; simp [hb]), settleBus_circ, hheld]
    exact ⟨rfl, rfl, rfl⟩
  · have hstation : ((s.slotOver n sl.kind).settleLine n).station = s.station :=
      (station_settleLine _ n).trans slotOver_station
    have hparts : ((s.slotOver n sl.kind).settleLine n).parts = s.parts := (parts_settleLine _ n).trans slotOver_parts
    refine ⟨_, exec_slotComplete, ?_⟩
    rw [slotDone_running h hl, runSlotDone_quiet hf hb, nextSlotOrHold_next (by rw [station_state hstation, hl])
      (by rw [station_hold hstation, hh]) (pendCirc_of_parts hparts hp), settleBus_circ,
      station_state (station_beginSlot _ n), station_state nextBoundary_station, station_state hstation]
    exact ⟨hl, beginSlot_slot⟩
  · simp only [State.isIdle, Bool.and_eq_true, Option.isNone_iff_eq_none, List.isEmpty_iff] at hidle
    obtain ⟨⟨-, hi⟩, hq⟩ := hidle
    have hrest : s.AtRest n := ⟨⟨hi, hq, hstop⟩, hplan, hcol⟩
    refine ⟨_, exec_slotComplete, ?_⟩
    simp only [slotDone_running h hl, settleBus_circ, settleBus_stories, settleBus_writer]
    cases hh : (s.circ n).lu.hold with
    | true =>
      obtain ⟨honly, hheld⟩ := runSlotDone_idle_held hrest hk hf hb hh hp
      exact ⟨fun m => honly.others, honly.stories, honly.writer, fun _ => hheld, nofun⟩
    | false =>
      obtain ⟨honly, hnext⟩ := runSlotDone_idle_next hrest hk hl hf hb hh hp
      exact ⟨fun m => honly.others, honly.stories, honly.writer, nofun, fun _ => hnext⟩

end Sys2Proof.Machine
end

section
namespace Sys2Proof.Machine

/-! ### A parked circuit: its motor off and no slot in progress (R138, R143) -/

section
variable {s : State} {n : Circ}

/-- Circuit n's motor is off and it sends nothing; in STOPPED it has nothing to start for. -/
structure State.Parked (s : State) (n : Circ) : Prop where
  motor : (s.circ n).lu.motor = false
  slot : (s.circ n).lu.slot = none
  place : (s.circ n).lu.state = .off ∨ (s.circ n).lu.state = .fault ∨
    (s.circ n).lu.state = .stopped ∧ (s.circ n).sch.queue = []

/-- FAULT parks the circuit (R152). -/
theorem faultCore_parked (h : vget s.mirror.pendCirc n = false) : (s.faultCore n).Parked n := by
  have hstate : ((s.faultTold n).circ n).lu.state = .fault := by rw [faultTold_lu]
  obtain ⟨i, hlu⟩ := settleLine_fault_lu hstate
  rw [← faultCore_settled h, faultTold_lu] at hlu
  exact ⟨by rw [hlu], by rw [hlu], by rw [hlu]; exact .inr (.inl rfl)⟩

/-- A parked circuit stays so when the runs are compared with the limits of a part taken (R147, R152). -/
theorem spaceLimits_parked (h : s.Parked n) (hp : vget s.mirror.pendCirc n = false) : (s.spaceLimits n).Parked n := by
  unfold State.spaceLimits
  rcases h.place with hs | hs | ⟨hs, -⟩ <;> simp only [hs]
  · exact h
  · exact h
  · split
    · exact faultCore_parked hp
    · exact h

theorem afterPart_parked {t : State} (h : t.Parked n) (hp : vget t.mirror.pendCirc n = false) :
    (s.afterPart n t).Parked n := by
  unfold State.afterPart
  split
  · exact h
  · exact spaceLimits_parked h hp

/-- Scheduling leaves a parked circuit's motor off (R93). -/
theorem sched_parked (h : s.Parked n) : ((s.sched n).circ n).lu.motor = false ∧ ((s.sched n).circ n).lu.slot = none := by
  have hstill : (s.circ n).lu.state ≠ .stopped ∨ (s.circ n).sch.queue = [] := by
    rcases h.place with hs | hs | ⟨-, hq⟩
    · simp [hs]
    · simp [hs]
    · exact .inr hq
  obtain ⟨c, i, hlu⟩ := settleLine_keeps (s := s) (n := n)
  rw [sched_settles hstill, hlu]
  exact ⟨h.motor, h.slot⟩

end

/-! ### A circuit part taken in STOPPED (R25, R143) -/

section
variable {s : State} {n : Circ}

/-- Circuit n as entry into STOPPED leaves an idle one: no slot, no idle timer, nothing queued (R138). -/
structure State.Stopped (s : State) (n : Circ) : Prop where
  state : (s.circ n).lu.state = .stopped
  motor : (s.circ n).lu.motor = false
  slot : (s.circ n).lu.slot = none
  idle : (s.circ n).lu.idle = none
  queue : (s.circ n).sch.queue = []

theorem State.Stopped.parked (h : s.Stopped n) : s.Parked n := ⟨h.motor, h.slot, .inr (.inr ⟨h.state, h.queue⟩)⟩

/-- A changed entry restarts the runs of a circuit whose idle timer stands, at most (R109, R147). -/
theorem circChange_keeps (h : (s.circ n).lu.idle = none) (old new : CircCfg) :
    ((s.circChange n old new).circ n).sch = (s.circ n).sch ∧
      ∃ a b, ((s.circChange n old new).circ n).lu = { (s.circ n).lu with spaceRun := a, markRun := b } := by
  by_cases hi : old.invert = new.invert
  · simp only [State.circChange, if_pos hi, circ_updSnd_same, h]
    exact ⟨trivial, _, _, by rw [← h]⟩
  · simp only [State.circChange, if_neg hi, circ_updLu_same, circ_updSnd_same, h]
    exact ⟨trivial, 0, 0, by rw [← h]⟩

theorem takeCirc_parked (h : s.Stopped n) : (s.takeCirc n).Parked n := by
  unfold State.takeCirc
  split
  · exact h.parked
  · generalize stagedCirc s.mirror.staging n = new
    rw [setCircCfg_eq]
    (repeat' split)
    · obtain ⟨hsch, a, b, hlu⟩ := circChange_keeps (s := s.withCcfg n new) h.idle (s.ccfg n) new
      exact ⟨by rw [hlu]; exact h.motor, by rw [hlu]; exact h.slot, .inr (.inr ⟨by rw [hlu]; exact h.state,
        by rw [hsch]; exact h.queue⟩)⟩
    · obtain ⟨hlu, -⟩ := circOff_circ (s := s.withCcfg n new) (n := n)
      exact ⟨by rw [hlu]; rfl, by rw [hlu]; rfl, .inl (by rw [hlu]; rfl)⟩
    · have hcirc := circOn_circ (s := s.withCcfg n new) (n := n)
      exact ⟨by rw [hcirc]; rfl, by rw [hcirc]; rfl, .inr (.inr ⟨by rw [hcirc], by rw [hcirc]; exact h.queue⟩)⟩
    · exact ⟨h.motor, h.slot, .inr (.inr ⟨h.state, h.queue⟩)⟩

theorem examineCirc_parked (h : s.Stopped n) : (s.examineCirc n).Parked n := by
  have hcirc := examineCirc_circ (s := s) n n
  have htaken := takeCirc_parked h
  exact ⟨by rw [hcirc, htaken.motor], by rw [hcirc, htaken.slot], by rw [hcirc]; exact htaken.place⟩

end

/-! ### An idle circuit stops (R138, R142) -/

section
variable {s : State} {n : Circ}

theorem isIdle_iff : s.isIdle n = true ↔
    (s.circ n).lu.state = .running ∧ (s.circ n).sch.item = none ∧ (s.circ n).sch.queue = [] := by
  simp [State.isIdle, and_assoc]

theorem stopCore_circ : (s.stopCore n).circ n = { s.circ n with
    lu := { (s.circ n).lu with state := .stopped, motor := false, slot := none, idle := none }
    snd := { (s.circ n).snd with plane := none, plan := [] } } := by
  simp [State.stopCore]

theorem stopCore_stopped (h : (s.circ n).sch.queue = []) : (s.stopCore n).Stopped n := by
  have hcirc := stopCore_circ (s := s) (n := n)
  exact ⟨by rw [hcirc], by rw [hcirc], by rw [hcirc], by rw [hcirc], by rw [hcirc]; exact h⟩

theorem stopCore_onlyCirc : s.OnlyCirc (s.stopCore n) n :=
  (onlyCirc_updLu _).trans (State.OnlyCirc.of_setCirc _)

/-- With no part pending an idle circuit stops and settles (R138). -/
theorem enterStopped_settled (hq : (s.circ n).sch.queue = []) (hp : vget s.mirror.pendCirc n = false) :
    s.enterStopped n = (s.stopCore n).settleLine n := by
  have hparts := (stopCore_onlyCirc (s := s) (n := n)).parts
  rw [State.enterStopped, circBoundary_settled (pendCirc_of_parts hparts hp), afterPart_parts hparts,
    sched_settles (.inr (stopCore_stopped hq).queue)]

/-- A part pending is examined at the entry into STOPPED (R143). -/
theorem enterStopped_examined (hp : vget s.mirror.pendCirc n = true) :
    s.enterStopped n = ((s.stopCore n).afterPart n ((s.stopCore n).examineCirc n)).sched n := by
  rw [State.enterStopped, circBoundary_pending (pendCirc_of_parts (stopCore_onlyCirc (s := s) (n := n)).parts hp)]
  rfl

/-- What an idle circuit that stops with no part pending moves (R138). -/
theorem enterStopped_circ (hq : (s.circ n).sch.queue = []) (hp : vget s.mirror.pendCirc n = false) :
    s.OnlyCirc (s.enterStopped n) n ∧ ((s.enterStopped n).circ n).lu =
        { (s.circ n).lu with state := .stopped, motor := false, slot := none, idle := none } ∧
      ((s.enterStopped n).circ n).snd = { (s.circ n).snd with plane := none, plan := [] } := by
  have hstopped := (stopCore_stopped hq).state
  obtain ⟨p, f, hsettled⟩ := settleLine_resting (s := s.stopCore n) (n := n) (by simp [hstopped]) (by simp [hstopped])
  rw [enterStopped_settled hq hp, hsettled, circ_setCirc_same, stopCore_circ]
  exact ⟨stopCore_onlyCirc.trans (.of_setCirc _), rfl, rfl⟩

theorem enterStopped_tookPart (hp : vget s.mirror.pendCirc n = true) : s.TookPart (s.enterStopped n) n := by
  rw [enterStopped_examined hp]
  exact sched_tookPart.of_staging rfl

/-- The motor of an idle circuit that stops is off, whatever part is taken there (R143). -/
theorem enterStopped_parked (hq : (s.circ n).sch.queue = []) :
    ((s.enterStopped n).circ n).lu.motor = false ∧ ((s.enterStopped n).circ n).lu.slot = none := by
  cases hp : vget s.mirror.pendCirc n with
  | false =>
    obtain ⟨-, hlu, -⟩ := enterStopped_circ hq hp
    rw [hlu]
    exact ⟨rfl, rfl⟩
  | true =>
    rw [enterStopped_examined hp]
    exact sched_parked (afterPart_parked (examineCirc_parked (stopCore_stopped hq)) (examineCirc_pendCirc n))

theorem exec_idleTimeout : exec (.idleTimeout n) s = .next (s.idleExpire n).settleBus := rfl

theorem idleExpire_due (hl : (s.circ n).lu.state = .running) (hi : (s.circ n).lu.idle.isSome = true)
    (ht : (s.ccfg n).idleTicks ≠ 0) : s.idleExpire n = s.enterStopped n := if_pos (by simp [hl, hi, ht])

theorem idleExpire_undue (h : (s.circ n).lu.idle = none ∨ (s.circ n).lu.state ≠ .running ∨ (s.ccfg n).idleTicks = 0) :
    s.idleExpire n = s := if_neg (by rcases h with h | h | h <;> simp [h])

theorem stopMotorReq_idle (h : s.isIdle n = true) : s.stopMotorReq n = s.enterStopped n := if_pos h

theorem stopMotorReq_other (h : s.isIdle n = false) : s.stopMotorReq n = s := if_neg (by simp [h])

end

/-- Settles O50: both ways to stop an idle circuit by the entry into STOPPED, with no part pending and with one. -/
theorem idleTimeoutStops : Obligations.IdleTimeoutStops := by
  refine fun s n => ⟨fun h hi ht => ?_, fun h => ?_, stopMotorReq_other, fun h hp => ?_, fun h hp => ?_⟩
  · obtain ⟨hl, -, hq⟩ := isIdle_iff.1 h
    obtain ⟨hmotor, hslot⟩ := enterStopped_parked hq
    refine ⟨_, exec_idleTimeout, ?_⟩
    rw [idleExpire_due hl hi ht, settleBus_circ, settleBus_stories, settleBus_writer]
    refine ⟨hmotor, hslot, fun hp => ?_, fun hp => ?_⟩
    · obtain ⟨honly, hlu, hsnd⟩ := enterStopped_circ hq hp
      rw [hlu, hsnd]
      exact ⟨rfl, rfl, rfl, fun m hm => (settleBus_circ _ m).trans (honly.others hm), honly.stories, honly.writer⟩
    · have htook := (enterStopped_tookPart hp).settleBus
      exact ⟨htook.ccfg, htook.pendCirc⟩
  · exact ⟨_, rfl, by rw [idleExpire_undue h]; exact sameBlocks_settleBus_self s⟩
  · obtain ⟨-, -, hq⟩ := isIdle_iff.1 h
    obtain ⟨honly, hlu, hsnd⟩ := enterStopped_circ hq hp
    rw [stopMotorReq_idle h, hlu, hsnd]
    exact ⟨rfl, rfl, honly.stories⟩
  · obtain ⟨-, -, hq⟩ := isIdle_iff.1 h
    rw [stopMotorReq_idle h]
    exact ⟨(enterStopped_parked hq).1, (enterStopped_tookPart hp).ccfg⟩

end Sys2Proof.Machine
end

section
namespace Sys2Proof.Machine

/-! ### A detected fault stays detected through a break (R148, R150, R152) -/

section
variable {s : State} {n : Circ}

theorem station_restartLine (cap : Capture) : (s.restartLine n cap).station = s.station := by
  have hcapture := fun (u : State) (x : Option Capture) =>
    station_updLu u n (fun l => { l with capture := x }) fun _ => rfl
  simp only [State.restartLine]
  split <;> simp only [hcapture, station_updFtc, station_updSnd]

theorem station_takeUp : (s.takeUp n).station = s.station := by
  unfold State.takeUp
  (repeat' split)
  · rfl
  · exact station_restartLine _
  · exact station_updLu s n _ fun _ => rfl

theorem leadOver_fltDet : ((s.leadOver n).circ n).lu.fltDet = (s.circ n).lu.fltDet := by
  rw [State.leadOver, enterRunning_fltDet, circ_updLu_same]

theorem leadSlots_fltDet {ends : State → Circ → State}
    (h : ((ends s n).circ n).lu.fltDet = (s.circ n).lu.fltDet) :
    ((s.leadSlots n ends).circ n).lu.fltDet = (s.circ n).lu.fltDet := by
  simp only [State.leadSlots]
  split
  · exact h
  · rw [circ_updLu_same]

theorem clearBreak_fltDet (hp : vget s.mirror.pendCirc n = false) :
    ((s.clearBreak n).circ n).lu.fltDet = (s.circ n).lu.fltDet := by
  unfold State.clearBreak
  split
  · rfl
  · rename_i cap _
    extract_lets into cleared told
    have htold : told.parts = s.parts := by simp [told, cleared]
    have hlu : (told.circ n).lu = (s.circ n).lu := by rw [post_circ, circ_updSnd_same]
    clear_value told into
    split
    · obtain ⟨c, i, hheld⟩ := heldCore_lu (s := told.updLu n fun l => { l with capture := some { cap with restartDue := true } })
        (pendCirc_of_parts (by rw [parts_updLu, htold]) hp)
      rw [hheld, circ_updLu_same, hlu]
    · rw [leadSlots_fltDet leadOver_fltDet, circ_updLu_same, hlu]
    · rw [enterRunning_fltDet, station_fltDet station_takeUp, hlu]

theorem brokenCore_fltDet : ((s.brokenCore n).circ n).lu.fltDet = (s.circ n).lu.fltDet := by
  rw [State.brokenCore, fetchTry_eq, circ_updFtc_same, State.setPoint, circ_updSch_same, post_circ, circ_updLu_same]

theorem enterBroken_fltDet (hp : vget s.mirror.pendCirc n = false) :
    ((s.enterBroken n).circ n).lu.fltDet = (s.circ n).lu.fltDet := by
  simp only [State.enterBroken]
  split
  · rw [clearBreak_fltDet (pendCirc_of_parts parts_brokenCore hp), brokenCore_fltDet]
  · exact brokenCore_fltDet

end

/-! ### The start of the motor (R135, R136, R148) -/

section
variable {s : State} {n : Circ}

/-- The motor started and LEAD entered, before its slots; a space run at the break limit is a break detected (R135, R148). -/
def State.leadBegun (s : State) (n : Circ) : State :=
  (s.updLu n fun l => { l with
    state := .lead, motor := true, brkDet := l.brkDet || decide ((s.ccfg n).brkLimit ≤ l.spaceRun) }).updSnd n
    fun d => { d with plane := none }

theorem leadStart_eq : s.leadStart n = (s.leadBegun n).leadSlots n State.leadEnd := rfl

theorem leadBegun_circ : (s.leadBegun n).circ n = { s.circ n with
    lu := { (s.circ n).lu with
      state := .lead, motor := true
      brkDet := (s.circ n).lu.brkDet || decide ((s.ccfg n).brkLimit ≤ (s.circ n).lu.spaceRun) }
    snd := { (s.circ n).snd with plane := none } } := by
  simp [State.leadBegun]

/-- A lead with slots begins with the whole of it (R135). -/
theorem leadStart_slots (h : 0 < (s.ccfg n).lead) : ((s.leadStart n).circ n).lu = { (s.circ n).lu with
    state := .lead, motor := true
    brkDet := (s.circ n).lu.brkDet || decide ((s.ccfg n).brkLimit ≤ (s.circ n).lu.spaceRun)
    leadLeft := (s.ccfg n).lead, slot := some { kind := .leadChar, elapsed := 0 } } := by
  rw [leadStart_eq, leadSlots_some (s := s.leadBegun n) h, circ_updLu_same, leadBegun_circ]
  rfl

/-- Past a lead of no slots a circuit with no hold pending runs at once (R136). -/
theorem leadStart_running (h : (s.ccfg n).lead = 0) (hh : (s.circ n).lu.hold = false) :
    ((s.leadStart n).circ n).lu.state = .running ∧ ((s.leadStart n).circ n).lu.motor = true ∧
      ((s.leadStart n).circ n).lu.slot.isSome = true ∧
      ((s.leadStart n).circ n).lu.fltDet = (s.circ n).lu.fltDet := by
  have hcirc := leadBegun_circ (s := s) (n := n)
  rw [leadStart_eq, leadSlots_none (s := s.leadBegun n) h, leadEnd_running (by rw [hcirc]; exact hh), enterRunning_motor,
    enterRunning_fltDet, leadDone_circ, hcirc]
  exact ⟨enterRunning_state, rfl, enterRunning_slot, rfl⟩

/-- Past a lead of no slots a circuit with a hold pending goes to HELD, where a detected break is acted on (R136,
R148). -/
theorem leadStart_held (h : (s.ccfg n).lead = 0) (hh : (s.circ n).lu.hold = true)
    (hp : vget s.mirror.pendCirc n = false) (hf : (s.circ n).lu.fltDet = false) : s.leadStart n =
      if (s.circ n).lu.brkDet || decide ((s.ccfg n).brkLimit ≤ (s.circ n).lu.spaceRun) then
        (((s.leadBegun n).leadDone n).heldCore n).enterBroken n
      else ((s.leadBegun n).leadDone n).heldCore n := by
  have hcirc := leadBegun_circ (s := s) (n := n)
  rw [leadStart_eq, leadSlots_none (s := s.leadBegun n) h,
    leadEnd_held (s := s.leadBegun n) (by rw [hcirc]; exact hh) hp (by rw [hcirc]; exact hf), hcirc]

theorem leadBegun_heldCore (hp : vget s.mirror.pendCirc n = false) :
    ∃ c i, ((((s.leadBegun n).leadDone n).heldCore n).circ n).lu = { (s.circ n).lu with
      state := .held, motor := true, hold := false, slot := none, leadLeft := 0
      brkDet := (s.circ n).lu.brkDet || decide ((s.ccfg n).brkLimit ≤ (s.circ n).lu.spaceRun)
      capture := c, idle := i } := by
  obtain ⟨c, i, hheld⟩ := heldCore_lu (s := (s.leadBegun n).leadDone n) hp
  exact ⟨c, i, by rw [hheld, leadDone_circ, leadBegun_circ]⟩

/-- The start of the motor detects no fault (R135, R152). -/
theorem leadStart_fltDet (hp : vget s.mirror.pendCirc n = false) (hf : (s.circ n).lu.fltDet = false) :
    ((s.leadStart n).circ n).lu.fltDet = false := by
  rcases Nat.eq_zero_or_pos (s.ccfg n).lead with h | h
  · cases hh : (s.circ n).lu.hold with
    | false =>
      obtain ⟨-, -, -, hflt⟩ := leadStart_running h hh
      rw [hflt, hf]
    | true =>
      obtain ⟨c, i, hheld⟩ := leadBegun_heldCore hp
      have hparts := parts_heldCore (s := (s.leadBegun n).leadDone n) hp
      rw [leadStart_held h hh hp hf]
      split
      · rw [enterBroken_fltDet (pendCirc_of_parts hparts hp), hheld, hf]
      · rw [hheld, hf]
  · rw [leadStart_slots h, hf]

theorem sched_fltDet (hp : vget s.mirror.pendCirc n = false) (hf : (s.circ n).lu.fltDet = false) :
    ((s.sched n).circ n).lu.fltDet = false := by
  unfold State.sched
  split
  · exact leadStart_fltDet hp hf
  · rw [station_fltDet (station_settleLine s n), hf]

end

/-! ### FAULT_RESTORE (R153) -/

section
variable {s : State} {n : Circ}

theorem exec_faultRestore : exec (.faultRestore n) s = .next (s.restoreReached n).settleBus := rfl

/-- The circuit in STOPPED with CIRCUIT_RESTORED posted, before its boundary (R153). -/
def State.restored (s : State) (n : Circ) : State :=
  ((s.updLu n fun l => { l with
    state := .stopped, motor := false, fltDet := false
    markRun := max l.markRun (s.ccfg n).clrLimit }).updSnd n fun d => { d with plane := none }).post
      { kind := .circuitRestored, circ := some n, valA := BitVec.ofNat 32 (s.circ n).sch.queue.length }

theorem restored_circ : (s.restored n).circ n = { s.circ n with
    lu := { (s.circ n).lu with
      state := .stopped, motor := false, fltDet := false
      markRun := max (s.circ n).lu.markRun (s.ccfg n).clrLimit }
    snd := { (s.circ n).snd with plane := none } } := by
  rw [State.restored, post_circ, circ_updSnd_same, circ_updLu_same]

theorem restored_parts : (s.restored n).parts = s.parts := by
  rw [State.restored, parts_post, parts_updSnd, parts_updLu]

theorem restored_staging : (s.restored n).mirror.staging = s.mirror.staging :=
  staging_of_outer (by rw [State.restored, outer_post, outer_updSnd, outer_updLu])

theorem restoreReached_unmet (h : (s.circ n).lu.state ≠ .fault ∨ s.readsMarkOn n = false) : s.restoreReached n = s :=
  if_neg (by rcases h with h | h <;> simp [h])

theorem restore_forceMark : (s.forceMark n).restore n =
    ((s.restored n).afterPart n ((s.restored n).circBoundary n)).sched n := by
  simp only [State.restore, State.forceMark, updLu_updLu, circ_updSnd_same, circ_updLu_same]
  rfl

theorem restoreReached_met (hl : (s.circ n).lu.state = .fault) (hm : s.readsMarkOn n = true) :
    s.restoreReached n = ((s.restored n).afterPart n ((s.restored n).circBoundary n)).sched n := by
  rw [State.restoreReached, if_pos (by simp [hl, hm]), restore_forceMark]

theorem restoreReached_settled (hl : (s.circ n).lu.state = .fault) (hm : s.readsMarkOn n = true)
    (hp : vget s.mirror.pendCirc n = false) : s.restoreReached n = (s.restored n).sched n := by
  rw [restoreReached_met hl hm, circBoundary_settled (pendCirc_of_parts restored_parts hp), afterPart_parts rfl]

theorem restoreReached_examined (hl : (s.circ n).lu.state = .fault) (hm : s.readsMarkOn n = true)
    (hp : vget s.mirror.pendCirc n = true) :
    s.restoreReached n = ((s.restored n).afterPart n ((s.restored n).examineCirc n)).sched n := by
  rw [restoreReached_met hl hm, circBoundary_pending (pendCirc_of_parts restored_parts hp)]

/-- A restored circuit with nothing queued stays in STOPPED (R153). -/
theorem restored_sched_stays (hq : (s.circ n).sch.queue = []) : (((s.restored n).sched n).circ n).lu.state = .stopped ∧
    (((s.restored n).sched n).circ n).lu.motor = false := by
  have hcirc := restored_circ (s := s) (n := n)
  rw [sched_settles (.inr (by rw [hcirc]; exact hq)), station_state (station_settleLine _ n),
    station_motor (station_settleLine _ n), hcirc]
  exact ⟨rfl, rfl⟩

theorem restored_sched_starts (hq : (s.circ n).sch.queue ≠ []) : (s.restored n).sched n = (s.restored n).leadStart n := by
  have hcirc := restored_circ (s := s) (n := n)
  exact sched_starts (by rw [hcirc]) (by rw [hcirc]; exact hq)

/-- A restored circuit with a hold pending and no break to act on is HELD past a lead of no slots (R136, R153). -/
theorem restored_leadStart_held (h : (s.ccfg n).lead = 0) (hh : (s.circ n).lu.hold = true)
    (hp : vget s.mirror.pendCirc n = false) (hb : (s.circ n).lu.brkDet = false)
    (hrun : (s.circ n).lu.spaceRun < (s.ccfg n).brkLimit) :
    (((s.restored n).leadStart n).circ n).lu.state = .held ∧
      (((s.restored n).leadStart n).circ n).lu.motor = true ∧
      (((s.restored n).leadStart n).circ n).lu.slot = none := by
  have hcirc := restored_circ (s := s) (n := n)
  have hcfg : (s.restored n).ccfg n = s.ccfg n := parts_ccfg restored_parts n
  have hpend := pendCirc_of_parts (restored_parts (s := s) (n := n)) hp
  obtain ⟨c, i, hheld⟩ := leadBegun_heldCore hpend
  have hnot : ¬ (((s.restored n).circ n).lu.brkDet ||
      decide (((s.restored n).ccfg n).brkLimit ≤ ((s.restored n).circ n).lu.spaceRun)) = true := by
    rw [hcfg, hcirc]
    simpa [hb] using hrun
  rw [leadStart_held (by rw [hcfg]; exact h) (by rw [hcirc]; exact hh) hpend (by rw [hcirc]), if_neg hnot, hheld]
  exact ⟨rfl, rfl, rfl⟩

end

/-- Settles O54: the circuit restored, then where it goes by its queue, its lead and its hold, and the part taken in
STOPPED. -/
theorem faultIsRestored : Obligations.FaultIsRestored := by
  refine ⟨fun s n hl hm => ⟨fun hp => ?_, fun hp => ?_⟩, fun s n => ⟨fun h => ?_, fun hl hm hp => ?_, fun hl hm hp => ?_⟩⟩
  · rw [exec_faultRestore, restoreReached_settled hl hm hp]
    rfl
  · rw [exec_faultRestore, restoreReached_examined hl hm hp]
    rfl
  · exact ⟨_, rfl, by rw [restoreReached_unmet h]; exact sameBlocks_settleBus_self s⟩
  · have hcirc := restored_circ (s := s) (n := n)
    have hcfg : (s.restored n).ccfg n = s.ccfg n := parts_ccfg restored_parts n
    refine ⟨_, exec_faultRestore, ?_⟩
    rw [restoreReached_settled hl hm hp, settleBus_circ]
    refine ⟨sched_fltDet (pendCirc_of_parts restored_parts hp) (by rw [hcirc]), restored_sched_stays, fun hq h => ?_,
      fun hq h hh => ?_, fun hq h hh hb hrun => ?_⟩ <;> rw [restored_sched_starts hq]
    · rw [leadStart_slots (by rw [hcfg]; exact h), hcfg]
      exact ⟨rfl, rfl, rfl⟩
    · obtain ⟨hstate, hmotor, hslot, -⟩ :=
        leadStart_running (s := s.restored n) (n := n) (by rw [hcfg]; exact h) (by rw [hcirc]; exact hh)
      exact ⟨hstate, hmotor, hslot⟩
    · exact restored_leadStart_held h hh hp hb hrun
  · have htook := (sched_tookPart (s := s.restored n) (n := n)).of_staging restored_staging
    refine ⟨_, exec_faultRestore, ?_⟩
    rw [restoreReached_examined hl hm hp]
    exact ⟨htook.settleBus.ccfg, htook.settleBus.pendCirc⟩

end Sys2Proof.Machine
end

section
namespace Sys2Proof.Machine

/-! ### The break clears (R150) -/

section
variable {s : State} {n : Circ} {c : Capture} {x : CState}

theorem exec_breakClear : exec (.breakClear n) s = .next (s.clearReached n).settleBus := rfl

theorem clearReached_unmet (h : (s.circ n).lu.state ≠ .broken ∨ s.readsMarkOn n = false) : s.clearReached n = s :=
  if_neg (by rcases h with h | h <;> simp [h])

theorem clearReached_met (hl : (s.circ n).lu.state = .broken) (hm : s.readsMarkOn n = true) :
    s.clearReached n = (s.forceMark n).clearBreak n := if_pos (by simp [hl, hm])

theorem forceMark_circ : (s.forceMark n).circ n =
    { s.circ n with lu := { (s.circ n).lu with markRun := max (s.circ n).lu.markRun (s.ccfg n).clrLimit } } :=
  circ_updLu_same s n _

/-- The plane UNKNOWN and CIRCUIT_CLEAR posted, before the state is entered that the clear leads to (R150). -/
def State.cleared (s : State) (n : Circ) (into : CState) : State :=
  ((s.forceMark n).updSnd n fun d => { d with plane := none }).post (s.clearReport n into)

theorem cleared_circ : (s.cleared n x).circ n = { s.circ n with
    lu := { (s.circ n).lu with markRun := max (s.circ n).lu.markRun (s.ccfg n).clrLimit }
    snd := { (s.circ n).snd with plane := none } } := by
  rw [State.cleared, post_circ, circ_updSnd_same, forceMark_circ]

theorem cleared_parts : (s.cleared n x).parts = s.parts := by
  rw [State.cleared, parts_post, parts_updSnd, State.forceMark, parts_updLu]

theorem cleared_staging : (s.cleared n x).mirror.staging = s.mirror.staging :=
  staging_of_outer (by rw [State.cleared, outer_post, outer_updSnd, State.forceMark, outer_updLu])

theorem cleared_writer : (s.cleared n x).writer = (s.post (s.clearReport n x)).writer :=
  post_writer_congr (s := s) (u := (s.forceMark n).updSnd n fun d => { d with plane := none }) rfl rfl _

/-- The clear report is read off what the mark run and the plane leave alone. -/
theorem clearReport_forceMark :
    ((s.forceMark n).updSnd n fun d => { d with plane := none }).clearReport n x = s.clearReport n x := by
  rw [State.clearReport, circ_updSnd_same, forceMark_circ]
  rfl

theorem clearsInto_held (h : (s.circ n).lu.hold = true ∨ c.holdTaken = true ∨ c.from_ = .held) :
    (s.circ n).lu.clearsInto c = .held := if_pos (by rcases h with h | h | h <;> simp [h])

theorem clearsInto_lead (hh : (s.circ n).lu.hold = false) (ht : c.holdTaken = false) (hf : c.from_ = .lead) :
    (s.circ n).lu.clearsInto c = .lead := by simp [LineUnit.clearsInto, hh, ht, hf]

theorem clearsInto_running (hh : (s.circ n).lu.hold = false) (ht : c.holdTaken = false) (hf : c.from_ ≠ .held)
    (hl : c.from_ ≠ .lead) : (s.circ n).lu.clearsInto c = .running := by simp [LineUnit.clearsInto, hh, ht, hf, hl]

/-- The break cleared with a restart or continuation due, before HELD is entered (R150). -/
def State.clearedDue (s : State) (n : Circ) (c : Capture) : State :=
  (s.cleared n .held).updLu n fun l => { l with capture := some { c with restartDue := true } }

theorem clearedDue_circ : (s.clearedDue n c).circ n = { s.circ n with
    lu := { (s.circ n).lu with
      markRun := max (s.circ n).lu.markRun (s.ccfg n).clrLimit, capture := some { c with restartDue := true } }
    snd := { (s.circ n).snd with plane := none } } := by
  rw [State.clearedDue, circ_updLu_same, cleared_circ]

theorem clearedDue_parts : (s.clearedDue n c).parts = s.parts := by rw [State.clearedDue, parts_updLu, cleared_parts]

/-- The break cleared with no capture record, before the slots of the lead (R150). -/
def State.clearedLead (s : State) (n : Circ) : State :=
  (s.cleared n .lead).updLu n fun l => { l with state := .lead, capture := none }

theorem clearedLead_circ : (s.clearedLead n).circ n = { s.circ n with
    lu := { (s.circ n).lu with
      state := .lead, capture := none, markRun := max (s.circ n).lu.markRun (s.ccfg n).clrLimit }
    snd := { (s.circ n).snd with plane := none } } := by
  rw [State.clearedLead, circ_updLu_same, cleared_circ]

theorem clearedLead_ccfg : (s.clearedLead n).ccfg n = s.ccfg n :=
  parts_ccfg (by rw [State.clearedLead, parts_updLu, cleared_parts]) n

/-- The state entered when a break clears, by where the clear leads (R150). -/
def State.clearedInto (s : State) (n : Circ) (c : Capture) (into : CState) : State :=
  match into with
  | .held => (s.clearedDue n c).heldCore n
  | .lead => (s.clearedLead n).leadSlots n State.leadOver
  | y => ((s.cleared n y).takeUp n).enterRunning n

theorem clearedInto_heldCore : s.clearedInto n c .held = (s.clearedDue n c).heldCore n := rfl

theorem clearedInto_leadSlots : s.clearedInto n c .lead = (s.clearedLead n).leadSlots n State.leadOver := rfl

theorem clearedInto_running :
    s.clearedInto n c .running = ((s.cleared n .running).takeUp n).enterRunning n := rfl

theorem clearBreak_forceMark (hc : (s.circ n).lu.capture = some c) (hx : (s.circ n).lu.clearsInto c = x) :
    (s.forceMark n).clearBreak n = s.clearedInto n c x := by
  have hcap : ((s.forceMark n).circ n).lu.capture = some c := by rw [forceMark_circ]; exact hc
  have hinto : ((s.forceMark n).circ n).lu.clearsInto c = x := by rw [forceMark_circ]; exact hx
  simp only [State.clearBreak, hcap, hinto, clearReport_forceMark]
  cases x <;> rfl

/-- A clear into HELD leaves the restart or continuation due (R150). -/
theorem clearedInto_held (hp : vget s.mirror.pendCirc n = false) :
    ((s.clearedInto n c .held).circ n).lu.state = .held ∧ ((s.clearedInto n c .held).circ n).lu.slot = none ∧
      ((s.clearedInto n c .held).circ n).lu.hold = false ∧
      ((s.circ n).sch.stop = .none →
        ((s.clearedInto n c .held).circ n).lu.capture = some { c with restartDue := true } ∧
        (s.clearedInto n c .held).writer = (s.post (s.clearReport n .held)).writer) := by
  have hpend : vget (s.clearedDue n c).mirror.pendCirc n = false := pendCirc_of_parts clearedDue_parts hp
  obtain ⟨d, i, hheld⟩ := heldCore_lu hpend
  rw [clearedInto_heldCore]
  refine ⟨by rw [hheld], by rw [hheld], by rw [hheld], fun hstop => ?_⟩
  have hcirc := circ_updLu_same (s.clearedDue n c) n fun l =>
    { l with state := .held, hold := false, slot := none, idle := none }
  rw [clearedDue_circ] at hcirc
  obtain ⟨p, f, hsettled⟩ := settleLine_due (c := { c with restartDue := true }) (n := n)
    (s := (s.clearedDue n c).updLu n fun l => { l with state := .held, hold := false, slot := none, idle := none })
    (by rw [hcirc]; exact hstop) (by rw [hcirc]) (by rw [hcirc]) rfl
  rw [heldCore_settled hpend, hsettled, circ_setCirc_same, hcirc, setCirc_writer]
  exact ⟨rfl, cleared_writer⟩

/-- A part pending is taken at the entry into HELD (R143). -/
theorem heldCore_tookPart (hp : vget s.mirror.pendCirc n = true) : s.TookPart (s.heldCore n) n := by
  simp only [State.heldCore]
  rw [circBoundary_pending (s := s.updLu n _) hp]
  exact (examineCirc_tookPart.congr (parts_settleLine _ n)).of_staging rfl

theorem clearedInto_held_tookPart (hp : vget s.mirror.pendCirc n = true) : s.TookPart (s.clearedInto n c .held) n := by
  have hpend : vget (s.clearedDue n c).mirror.pendCirc n = true := pendCirc_of_parts clearedDue_parts hp
  exact (heldCore_tookPart hpend).of_staging cleared_staging

/-- The lead runs again from the beginning (R150). -/
theorem clearedInto_lead (h : 0 < (s.ccfg n).lead) : (s.clearedInto n c .lead).circ n = { s.circ n with
      lu := { (s.circ n).lu with
        state := .lead, capture := none, markRun := max (s.circ n).lu.markRun (s.ccfg n).clrLimit
        leadLeft := (s.ccfg n).lead, slot := some { kind := .leadChar, elapsed := 0 } }
      snd := { (s.circ n).snd with plane := none } } ∧
    (s.clearedInto n c .lead).writer = (s.post (s.clearReport n .lead)).writer := by
  rw [clearedInto_leadSlots, leadSlots_some (by rw [clearedLead_ccfg]; exact h), circ_updLu_same, clearedLead_circ,
    clearedLead_ccfg]
  exact ⟨rfl, cleared_writer⟩

/-- Through a lead of no slots the circuit is in RUNNING at once (R150). -/
theorem clearedInto_lead_none (h : (s.ccfg n).lead = 0) : ((s.clearedInto n c .lead).circ n).lu.state = .running ∧
    ((s.clearedInto n c .lead).circ n).lu.slot.isSome = true := by
  rw [clearedInto_leadSlots, leadSlots_none (by rw [clearedLead_ccfg]; exact h), State.leadOver]
  exact ⟨enterRunning_state, enterRunning_slot⟩

end

/-! ### What is due at RELEASE, and where the capture record goes (R150, R151) -/

section
variable {s : State} {n : Circ} {c : Capture}

theorem takeUpIfDue_none (h : ∀ c, (s.circ n).lu.capture = some c → c.restartDue = false) : s.takeUpIfDue n = s := by
  refine if_neg ?_
  rw [Option.any_eq_true]
  rintro ⟨c, hc, hdue⟩
  rw [h c hc] at hdue
  cases hdue

theorem takeUpIfDue_due (hc : (s.circ n).lu.capture = some c) (h : c.restartDue = true) :
    s.takeUpIfDue n = s.takeUp n := if_pos (by rw [hc]; exact h)

theorem over_iff (c : Capture) (k : NlCause) (b : Bool) : c.over k b = true ↔
    c.drop = .atNewline ∨ c.drop = .afterReplay ∧ b = false ∧ k ≠ .restart ∨ c.drop = .atServiceEnd ∧ k = .svcLast := by
  unfold Capture.over
  cases c.drop <;> simp

theorem dropCapture_capture (hc : (s.circ n).lu.capture = some c) (k : NlCause) :
    ((s.dropCapture n k).circ n).lu.capture =
      if c.drop = .atNewline ∨ c.drop = .afterReplay ∧ (s.circ n).snd.replay = none ∧ k ≠ .restart ∨
        c.drop = .atServiceEnd ∧ k = .svcLast then none else some c := by
  simp only [State.dropCapture, hc, over_iff, Option.isSome_eq_false_iff, Option.isNone_iff_eq_none]
  split
  · rw [circ_updLu_same]
  · exact hc

end

/-! ### Restart and continuation (R151) -/

section
variable {s : State} {n : Circ} {c : Capture}

theorem restartLine_onlyCirc : s.OnlyCirc (s.restartLine n c) n := by
  simp only [State.restartLine]
  split
  · exact (State.OnlyCirc.of_setCirc _).trans ((State.OnlyCirc.of_setCirc _).trans (onlyCirc_updLu _))
  · exact (State.OnlyCirc.of_setCirc _).trans (onlyCirc_updLu _)
  · exact (State.OnlyCirc.of_setCirc _).trans (onlyCirc_updLu _)

theorem takeUp_continues (hc : (s.circ n).lu.capture = some c) (h : (s.ccfg n).restart = false) : s.takeUp n =
    s.updLu n fun l => { l with capture := some { c with drop := .atNewline, restartDue := false } } := by
  simp only [State.takeUp, hc, h, Bool.false_eq_true, if_false]

theorem takeUp_restarts (hc : (s.circ n).lu.capture = some c) (h : (s.ccfg n).restart = true) :
    s.takeUp n = s.restartLine n c := by
  simp only [State.takeUp, hc, h, if_true]

theorem takeUp_onlyCirc (hc : (s.circ n).lu.capture = some c) : s.OnlyCirc (s.takeUp n) n := by
  cases h : (s.ccfg n).restart with
  | false =>
    rw [takeUp_continues hc h]
    exact onlyCirc_updLu _
  | true =>
    rw [takeUp_restarts hc h]
    exact restartLine_onlyCirc

/-- A restart newline is due with an item in service or a column above 0 (R151). -/
def State.restartDue (s : State) (n : Circ) : Prop := (s.circ n).sch.item ≠ none ∨ (s.circ n).snd.column ≠ 0

theorem restartDue_iff :
    ((s.circ n).sch.item.isSome || (s.circ n).snd.column != 0) = true ↔ s.restartDue n := by
  simp [State.restartDue, Option.isSome_iff_ne_none]

theorem restartLine_text {o : Nat} (hi : (s.circ n).sch.item ≠ none) (ho : c.origin = .text o) :
    (s.restartLine n c).circ n = { s.circ n with
      lu := { (s.circ n).lu with capture := some { c with drop := .afterReplay, restartDue := false } }
      snd := { (s.circ n).snd with
        plan := placeNewline (s.ccfg n).fill .restart, phase := .text, svc := none, readPos := o, nextUnsent := o
        held := [], inDirective := (s.circ n).snd.originDir, pend := 0, stopBegun := false
        replay := some (o, c.nextUnsent) }
      ftc := { Fetcher.discard (s.circ n).ftc .dropStale with look := [], nextFetch := unitOf o } } := by
  have hsome : (s.circ n).sch.item.isSome = true := Option.isSome_iff_ne_none.2 hi
  simp only [State.restartLine, hsome, Bool.true_or, if_true, ho, circ_updLu_same, circ_updFtc_same, circ_updSnd_same,
    syncUnsent_eq]

theorem restartLine_svc {k : SvcKind} (hi : (s.circ n).sch.item ≠ none) (ho : c.origin = .svc k) :
    (s.restartLine n c).circ n = { s.circ n with
      lu := { (s.circ n).lu with capture := some { c with drop := .atServiceEnd, restartDue := false } }
      snd := { (s.circ n).snd with
        plan := placeNewline (s.ccfg n).fill .restart, phase := k.phase, svc := none } } := by
  have hsome : (s.circ n).sch.item.isSome = true := Option.isSome_iff_ne_none.2 hi
  simp only [State.restartLine, hsome, Bool.true_or, if_true, ho, circ_updLu_same, circ_updSnd_same]

/-- Without an item, or without an origin, the phase goes on, behind a restart newline where one is due (R151; log entry
14). -/
theorem restartLine_none (h : (s.circ n).sch.item = none ∨ c.origin = .none) :
    (s.restartDue n → (s.restartLine n c).circ n = { s.circ n with
      lu := { (s.circ n).lu with capture := some { c with drop := .atNewline, restartDue := false } }
      snd := { (s.circ n).snd with plan := placeNewline (s.ccfg n).fill .restart } }) ∧
    (¬ s.restartDue n → (s.restartLine n c).circ n = { s.circ n with
      lu := { (s.circ n).lu with capture := none }, snd := { (s.circ n).snd with plan := [] } }) := by
  have horigin : (if (s.circ n).sch.item.isSome = true then c.origin else .none) = Origin.none := by
    rcases h with h | h <;> simp [h]
  constructor <;> intro hdue <;> rw [← restartDue_iff] at hdue <;>
    simp only [State.restartLine, horigin, hdue, Bool.false_eq_true, if_true, if_false, circ_updLu_same, circ_updSnd_same]

end

/-- Settles O52: the clear by the state it leads to, what RELEASE takes up and where the capture record goes, and the
restart by its origin. -/
theorem breakClears : Obligations.BreakClears := by
  refine ⟨fun s n => ⟨fun h => ?_, fun c hl hm hc => ⟨_, exec_breakClear, ?_⟩⟩, fun s n => ⟨enterRunning_eq,
    fun hl h => ?_, fun c hl hc h => ?_, fun k c hc => ⟨rfl, dropCapture_capture hc k⟩⟩,
    fun s n c hc => ⟨takeUp_onlyCirc hc, fun h => ?_, fun h => ?_⟩⟩
  · exact ⟨_, rfl, by rw [clearReached_unmet h]; exact sameBlocks_settleBus_self s⟩
  · rw [clearReached_met hl hm, settleBus_circ, settleBus_writer]
    refine ⟨fun h => ?_, fun hh ht hf hnl => ?_, fun hh ht hf hlead => ?_, fun hh ht hf hlead => ?_⟩
    · rw [clearBreak_forceMark hc (clearsInto_held h)]
      refine ⟨clearedInto_held, fun hp => ?_⟩
      have htook := (clearedInto_held_tookPart (c := c) hp).settleBus
      exact ⟨htook.ccfg, htook.pendCirc⟩
    · rw [clearBreak_forceMark hc (clearsInto_running hh ht hf hnl), clearedInto_running]
      exact ⟨rfl, enterRunning_state, enterRunning_slot⟩
    · obtain ⟨hcirc, hwriter⟩ := clearedInto_lead (c := c) hlead
      rw [clearBreak_forceMark hc (clearsInto_lead hh ht hf), hcirc]
      exact ⟨rfl, rfl, rfl, rfl, hwriter⟩
    · rw [clearBreak_forceMark hc (clearsInto_lead hh ht hf)]
      exact clearedInto_lead_none hlead
  · rw [releaseReq_held hl, takeUpIfDue_none h]
  · rw [releaseReq_held hl, takeUpIfDue_due hc h]
  · rw [takeUp_continues hc h, circ_updLu_same]
  · rw [takeUp_restarts hc h]
    refine ⟨fun o hi ho => ?_, fun k hi ho => ?_, fun hnone => ?_⟩
    · rw [restartLine_text hi ho]
      simp only [hi, ne_eq, not_false_eq_true, true_or, if_true]
      rfl
    · rw [restartLine_svc hi ho]
      simp only [hi, ne_eq, not_false_eq_true, true_or, if_true]
    · obtain ⟨hdue, hidle⟩ := restartLine_none hnone
      refine ⟨fun h => ?_, hidle⟩
      rw [hdue h, if_pos h]

end Sys2Proof.Machine
end

section
namespace Sys2Proof.Machine

/-! ### Entry into BROKEN (R148) -/

section
variable {s : State} {n : Circ}

/-- The circuit in BROKEN with CIRCUIT_BREAK posted, before its preemption point and its next fetch (R148). -/
def State.brokenTold (s : State) (n : Circ) : State :=
  (s.updLu n fun l => { l with
    state := .broken, slot := none, idle := none, brkDet := false
    capture := some ((s.circ n).captured l.state) }).post (s.breakReport n (s.circ n).lu.state)

theorem brokenTold_circ : (s.brokenTold n).circ n = { s.circ n with
    lu := { (s.circ n).lu with
      state := .broken, slot := none, idle := none, brkDet := false
      capture := some ((s.circ n).captured (s.circ n).lu.state) } } := by
  rw [State.brokenTold, post_circ, circ_updLu_same]

theorem brokenTold_stories : (s.brokenTold n).stories = s.stories :=
  (post_told _).keeps State.stories fun _ _ _ => rfl

theorem brokenTold_writer : (s.brokenTold n).writer = (s.post (s.breakReport n (s.circ n).lu.state)).writer := by
  rw [State.brokenTold]
  exact post_writer_congr (s := s) (u := s.updLu n _) rfl rfl _

/-- The break report is read off what the Line Unit does not hold. -/
theorem brokenCore_eq : s.brokenCore n = ((s.brokenTold n).setPoint n).fetchTry n := by
  have hreport (f) : (s.updLu n f).breakReport n (s.circ n).lu.state = s.breakReport n (s.circ n).lu.state := by
    rw [State.breakReport, circ_updLu_same]
    rfl
  rw [State.brokenCore, hreport]
  rfl

/-- Behind the report the entry into BROKEN moves the circuit's preemption point and fetcher alone (R95, R144). -/
theorem brokenCore_frame : ∃ p f, s.brokenCore n = (s.brokenTold n).setCirc n { (s.brokenTold n).circ n with
    sch := { ((s.brokenTold n).circ n).sch with point := p }, ftc := f } := by
  refine ⟨(s.brokenTold n).pointOf n, (((((s.brokenTold n).setPoint n).fetchTry n).circ n).ftc), ?_⟩
  rw [brokenCore_eq, fetchTry_eq]
  simp only [State.setPoint, State.updSch, State.updFtc, circ_setCirc_same, setCirc_setCirc]

theorem brokenCore_lu : ((s.brokenCore n).circ n).lu = { (s.circ n).lu with
    state := .broken, slot := none, idle := none, brkDet := false
    capture := some ((s.circ n).captured (s.circ n).lu.state) } := by
  obtain ⟨p, f, hframe⟩ := brokenCore_frame (s := s) (n := n)
  rw [hframe, circ_setCirc_same, brokenTold_circ]

theorem brokenCore_stories : (s.brokenCore n).stories = s.stories := by
  obtain ⟨p, f, hframe⟩ := brokenCore_frame (s := s) (n := n)
  rw [hframe, setCirc_stories, brokenTold_stories]

theorem brokenCore_writer : (s.brokenCore n).writer = (s.post (s.breakReport n (s.circ n).lu.state)).writer := by
  obtain ⟨p, f, hframe⟩ := brokenCore_frame (s := s) (n := n)
  rw [hframe, setCirc_writer, brokenTold_writer]

/-- A break entered while the input reads space does not clear in the same event (R150). -/
theorem enterBroken_space (hm : s.readsMarkOn n = false) : s.enterBroken n = s.brokenCore n := by
  have hsense : ((s.brokenCore n).circ n).lu.readsMark ((s.brokenCore n).ccfg n).invert = false := by
    rw [brokenCore_lu, parts_ccfg parts_brokenCore]
    exact hm
  have hunreached : (s.brokenCore n).markReached n = false := by rw [State.markReached, hsense, Bool.false_and]
  simp only [State.enterBroken, hunreached, Bool.false_eq_true, if_false]

end

/-! ### BREAK_DETECTED by the circuit's state (R148) -/

section
variable {s : State} {n : Circ}

theorem exec_breakDetected : exec (.breakDetected n) s = .next (s.breakReached n).settleBus := rfl

theorem breakReached_unmet (h : s.readsMarkOn n = true ∨ (s.circ n).lu.state.breakable = false) :
    s.breakReached n = s := if_neg (by rcases h with h | h <;> simp [h])

/-- The space run at the break limit at least, and the break detected (R147, R148; log entry 6). -/
def State.breakFound (s : State) (n : Circ) : State := s.updLu n fun l =>
  { l with spaceRun := max l.spaceRun (s.ccfg n).brkLimit, brkDet := true }

theorem breakFound_circ : (s.breakFound n).circ n = { s.circ n with
    lu := { (s.circ n).lu with spaceRun := max (s.circ n).lu.spaceRun (s.ccfg n).brkLimit, brkDet := true } } :=
  circ_updLu_same s n _

theorem breakFound_readsMarkOn : (s.breakFound n).readsMarkOn n = s.readsMarkOn n := by
  rw [State.readsMarkOn, breakFound_circ]
  rfl

theorem breakFound_breakReport (x : CState) : (s.breakFound n).breakReport n x = s.breakReport n x := by
  rw [State.breakReport, breakFound_circ]
  rfl

theorem breakFound_writer (r : Report) : ((s.breakFound n).post r).writer = (s.post r).writer :=
  post_writer_congr (s := s) (u := s.breakFound n) rfl rfl r

theorem breakReached_met (hm : s.readsMarkOn n = false) (hb : (s.circ n).lu.state.breakable = true) :
    s.breakReached n = if (s.circ n).lu.state = .held then (s.breakFound n).enterBroken n else s.breakFound n := by
  simp only [State.breakReached, hb, hm, Bool.not_false, Bool.and_self, if_true, circ_updLu_same, beq_iff_eq]
  rfl

/-- In LEAD and RUNNING the break waits for the slot in progress (R148). -/
theorem breakReached_pacing (hm : s.readsMarkOn n = false)
    (h : (s.circ n).lu.state = .lead ∨ (s.circ n).lu.state = .running) : s.breakReached n = s.breakFound n := by
  rcases h with h | h <;> rw [breakReached_met hm (by rw [h]; rfl), h, if_neg nofun]

/-- In HELD no slot is in progress, and BROKEN is entered at once (R148). -/
theorem breakReached_held (hm : s.readsMarkOn n = false) (h : (s.circ n).lu.state = .held) :
    s.breakReached n = (s.breakFound n).brokenCore n := by
  rw [breakReached_met hm (by rw [h]; rfl), if_pos h, enterBroken_space (breakFound_readsMarkOn.trans hm)]

end

/-- Settles O51: the break by the state it is detected in. -/
theorem breakIsDetected : Obligations.BreakIsDetected := by
  refine fun s n => ⟨fun h => ?_, fun hm h => ⟨_, exec_breakDetected, ?_⟩, fun hm h => ⟨_, exec_breakDetected, ?_⟩⟩
  · exact ⟨_, rfl, by rw [breakReached_unmet h]; exact sameBlocks_settleBus_self s⟩
  · simp only [breakReached_pacing hm h, settleBus_circ, settleBus_stories, settleBus_writer]
    have honly : s.OnlyCirc (s.breakFound n) n := onlyCirc_updLu _
    exact ⟨by rw [breakFound_circ], fun m => honly.others, honly.stories, honly.writer⟩
  · have hstate : ((s.breakFound n).circ n).lu.state = .held := by rw [breakFound_circ]; exact h
    rw [breakReached_held hm h, settleBus_circ, settleBus_stories, settleBus_writer, brokenCore_lu, brokenCore_stories,
      brokenCore_writer, hstate, breakFound_breakReport, breakFound_writer, breakFound_circ]
    exact ⟨rfl, rfl, rfl, rfl, rfl, rfl⟩

end Sys2Proof.Machine
end

section
namespace Sys2Proof.Machine

/-! ### What a post comes to (R158, R159) -/

section
variable {s : State} {r : Report}

theorem beginReport_open (ho : s.ringOpen = true) : s.beginReport r = s.setWriter { s.writer with
    rec_ := some
      { slot := s.writer.tail, words := composeRecord r (s.flagged r.kind) s.writer.lost, flag := s.flagged r.kind,
        done := 0, isReset := r.kind == .resetDone }
    lost := 0 } := if_pos ho

theorem beginReport_shut (ho : s.ringOpen = false) : s.beginReport r = s.dropReport r := if_neg (by simp [ho])

theorem post_idle (hr : s.writer.rec_ = none) (hq : s.writer.queue = []) : s.post r = s.beginReport r :=
  if_pos (by rw [hr, hq]; rfl)

theorem post_busy (h : s.writer.rec_ ≠ none ∨ s.writer.queue ≠ []) : s.post r =
    if 4 ≤ s.writer.queue.length then s.dropReport r
    else s.setWriter { s.writer with queue := s.writer.queue ++ [r] } := by
  refine if_neg fun hidle => ?_
  obtain ⟨hr, hq⟩ : s.writer.rec_ = none ∧ s.writer.queue = [] := by simpa using hidle
  exact h.elim (absurd hr) (absurd hq)

theorem post_queued (h : s.writer.rec_ ≠ none ∨ s.writer.queue ≠ []) (hl : s.writer.queue.length < 4) :
    s.post r = s.setWriter { s.writer with queue := s.writer.queue ++ [r] } :=
  (post_busy h).trans (if_neg (Nat.not_le.2 hl))

/-- Four queued reports leave no room, whether or not a record is in writing (R158). -/
theorem post_full (hl : 4 ≤ s.writer.queue.length) : s.post r = s.dropReport r :=
  (post_busy (.inr fun hq => by rw [hq] at hl; exact absurd hl (by decide))).trans (if_pos hl)

end

/-! ### The bytes of a record (R159, R173) -/

section
variable (r : Report) (attn : Bool) (lost : Nat)

/-- The 16 bytes of a record in memory order, as R173 lays them out. -/
def recordBytes : List Byte :=
  [byteN r.kind.code, flagByte attn r, optByte r.feed, optByte r.circ,
    optByte r.tag, optByte r.cls, (optNumber r.number).extractLsb' 0 8, (optNumber r.number).extractLsb' 8 8,
    wordByte r.valA 0, wordByte r.valA 1, wordByte r.valA 2, wordByte r.valA 3,
    r.valB.extractLsb' 0 8, r.valB.extractLsb' 8 8, byteN lost, byteN (lost / 256)]

theorem length_recordBytes : (recordBytes r attn lost).length = 16 := rfl

/-- A word is made of its own four lanes (R168). -/
theorem wordOf_wordByte (d : Word32) : wordOf (wordByte d 0) (wordByte d 1) (wordByte d 2) (wordByte d 3) = d := by
  simp only [wordOf, wordByte]
  rw [BitVec.extractLsb'_append_extractLsb'_eq_extractLsb' (rfl : 8 * 3 = 8 * 2 + 8),
    BitVec.extractLsb'_append_extractLsb'_eq_extractLsb' (rfl : 8 * 2 = 8 * 1 + 8),
    BitVec.extractLsb'_append_extractLsb'_eq_extractLsb' (rfl : 8 * 1 = 8 * 0 + 8)]
  exact BitVec.extractLsb'_eq_self

theorem composeRecord_eq_wordsOf : composeRecord r attn lost = wordsOf (recordBytes r attn lost) := by
  simp only [composeRecord, recordBytes, wordsOf, wordOf_wordByte]

theorem byteAt_composeRecord (j : Nat) :
    byteAt (composeRecord r attn lost) j = (recordBytes r attn lost).getD j 0 := by
  rw [composeRecord_eq_wordsOf]
  exact byteAt_wordsOf (by rw [length_recordBytes]; decide) j

/-- The bits of the flag byte (R173): attention, header fault, unclosed, unrouted, and zeros. -/
theorem flagByte_getLsbD (i : Nat) :
    (flagByte attn r).getLsbD i = [attn, r.hdrFault, r.unclosed, r.unrouted].getD i false := by
  have hbits : ∀ (a h c u : Bool) (k : Fin 8),
      (byteN ((if a then 1 else 0) + (if h then 2 else 0) + (if c then 4 else 0) + (if u then 8 else 0))).getLsbD k =
        [a, h, c, u].getD k false := by decide
  rcases Nat.lt_or_ge i 8 with hi | hi
  · exact hbits attn r.hdrFault r.unclosed r.unrouted ⟨i, hi⟩
  · rw [BitVec.getLsbD_of_ge _ _ hi, List.getD_eq_default _ _ (Nat.le_trans (by simp) hi)]

/-- The two bytes of the lost count hold it (R162). -/
theorem lost_bytes (h : lost ≤ 65535) : (byteN lost).toNat + 256 * (byteN (lost / 256)).toNat = lost := by
  simp only [byteN, BitVec.toNat_ofNat]
  omega

end

/-- Settles O55: the post by what the Writer holds and whether the ring is open, then the record byte by byte. -/
theorem postedReports : Obligations.PostedReports := by
  refine ⟨fun s r hk => ⟨fun hr hq ho => ?_, fun hr hq ho => ?_, fun hbusy hl => ?_, fun hl => ?_⟩,
    fun r attn lost => ?_, rfl⟩
  · have hreset : (r.kind == .resetDone) = false := by simpa using hk
    rw [post_idle hr hq, beginReport_open ho, hreset]
    rfl
  · rw [post_idle hr hq, beginReport_shut ho, dropReport_writer]
  · rw [post_queued hbusy hl, setWriter_writer]
  · rw [post_full hl, dropReport_writer]
  · intro b
    have hbyte : ∀ j, b j = (recordBytes r attn lost).getD j 0 := byteAt_composeRecord r attn lost
    have hflag : ∀ i, (b 1).getLsbD i = [attn, r.hdrFault, r.unclosed, r.unrouted].getD i false := fun i => by
      rw [hbyte]; exact flagByte_getLsbD r attn i
    have hfeed : b 2 = optByte r.feed := hbyte 2
    have hcirc : b 3 = optByte r.circ := hbyte 3
    have htag : b 4 = optByte r.tag := hbyte 4
    have hcls : b 5 = optByte r.cls := hbyte 5
    have hlow : b 6 = (optNumber r.number).extractLsb' 0 8 := hbyte 6
    have hhigh : b 7 = (optNumber r.number).extractLsb' 8 8 := hbyte 7
    refine ⟨rfl, hbyte 0, ⟨hflag 0, hflag 1, hflag 2, hflag 3, fun i hi => ?_⟩, ?_, ?_, ?_, ?_,
      fun hn => ?_, fun m hn => ?_, fun i hi => ?_, hbyte 12, hbyte 13, fun hlost => ?_⟩
    · rw [hflag, List.getD_eq_default _ _ hi]
    · rw [hfeed]; cases r.feed <;> rfl
    · rw [hcirc]; cases r.circ <;> rfl
    · rw [htag]; cases r.tag <;> rfl
    · rw [hcls]; cases r.cls <;> rfl
    · rw [hlow, hhigh, hn]; exact ⟨rfl, rfl⟩
    · rw [hlow, hhigh, hn]; exact ⟨rfl, rfl⟩
    · rw [hbyte]
      obtain rfl | rfl | rfl | rfl : i = 0 ∨ i = 1 ∨ i = 2 ∨ i = 3 := by omega
      all_goals rfl
    · rw [hbyte, hbyte]
      exact lost_bytes lost hlost

end Sys2Proof.Machine
end

section
namespace Sys2Proof.Machine

/-! ### Who writes the queue of commands (log entry 5) -/

section
variable {s t : State}

theorem pending_of_outer (h : t.outer = s.outer) : t.pending = s.pending := congrArg (·.2.2.2.2) h

theorem pending_of_rim (h : t.rim = s.rim) : t.pending = s.pending := congrArg (·.2.2.2.2.2) h

/-- An event that works behind the bus, followed by the end of every event. -/
theorem settled_pending (h : t.outer = s.outer) : t.settleBus.pending = s.pending :=
  (settleBus_pending t).trans (pending_of_outer h)

theorem release_pending (page : BitVec 2) (load : Bool) : (s.release page load).pending = s.pending := by
  unfold State.release
  split
  · rw [settleBus_pending]
    split <;> rfl
  · rfl

theorem present_pending (x : Txn) : (s.present x).pending = s.pending := by
  unfold State.present
  split
  · rfl
  · exact settleBus_pending _

theorem hostFault_pending : s.hostFault.pending = s.pending := by
  unfold State.hostFault
  split
  · rfl
  · split
    · rfl
    · exact settleBus_pending _

theorem handOn_pending (x : Txn) : (s.handOn x).pending = s.pending := by
  rcases rim_handOn s x with h | ⟨off, h⟩
  · exact pending_of_rim h
  · exact pending_of_rim (s := s.stageWrite off x.be x.data) h

theorem completeHost_pending (names : State → Txn → Bool) : (s.completeHost names).pending = s.pending := by
  unfold State.completeHost
  split
  · rfl
  · rename_i x _
    split
    · exact (settleBus_pending _).trans (handOn_pending (s := s.landed x) x)
    · rfl

/-! The part's own words: the port freed and memory written do not bear on the queue, and neither does the block the
word goes to. -/

theorem fetchComplete_pending (fault : Bool) : (s.fetchComplete fault).pending = s.pending := by
  unfold State.fetchComplete
  split
  · rw [settleBus_pending]
    split
    · rfl
    · exact pending_of_outer (s := s.freePort) (outer_fetchWord _ _ _ _)
  · rfl

theorem recordComplete_pending : s.recordComplete.pending = s.pending := by
  unfold State.recordComplete
  split
  · rename_i x o _
    rw [settleBus_pending]
    split
    · rfl
    · exact pending_of_outer (s := { s.freePort with mem := memApply s.mem x }) (outer_recordWord _)
  · rfl

theorem listComplete_pending : s.listComplete.pending = s.pending := by
  unfold State.listComplete
  split
  · exact settleBus_pending _
  · rfl

theorem snapComplete_pending : s.snapComplete.pending = s.pending := by
  unfold State.snapComplete
  split
  · rename_i x o _
    exact settled_pending (s := { s.freePort with mem := memApply s.mem x }) (outer_snapWord _)
  · rfl

theorem loadWord_pending (d : Word32) : (s.loadWord d).pending = s.pending := by
  rcases outer_loadWord (s := s) d with h | ⟨off, h⟩
  · exact pending_of_outer h
  · exact pending_of_outer (s := s.stageWrite off 0xF d) h

theorem loadComplete_pending (fault : Bool) : (s.loadComplete fault).pending = s.pending := by
  unfold State.loadComplete
  split
  · exact (settleBus_pending _).trans (loadWord_pending (s := s.freePort) _)
  · rfl

/-- Settles O6: RESET carries the queue over, an event of a line works behind the bus, and what completes at the port
only frees it, writes memory and hands its word on. -/
theorem commandsLeaveTheQueue : Obligations.CommandsLeaveTheQueue := by
  intro c s t h
  cases c <;> cases h
  case powerOnReset => rfl
  case resetRelease => exact release_pending _ _
  case hostRequest => exact present_pending _
  case hostReadFault => exact hostFault_pending
  case fetchWordComplete => exact fetchComplete_pending _
  case recordWordComplete => exact recordComplete_pending
  case mirrorWriteComplete => exact listComplete_pending
  case snapshotWordWrite => exact snapComplete_pending
  case pageLoadRead => exact loadComplete_pending _
  case slotComplete => exact settled_pending (outer_slotDone _ _)
  case idleTimeout => exact settled_pending (outer_idleExpire _ _)
  case starveLimitReached => exact settled_pending (outer_starveReached _ _)
  case breakDetected => exact settled_pending (outer_breakReached _ _)
  case breakClear => exact settled_pending (outer_clearReached _ _)
  case loopFault => exact settled_pending (outer_faultReached _ _)
  case faultRestore => exact settled_pending (outer_restoreReached _ _)
  case senseInputLevelChange => exact pending_of_outer (outer_senseLevel _ _ _)
  -- The other commands are the kinds of host transaction.
  all_goals exact completeHost_pending _

end
end Sys2Proof.Machine
end
